-- ==== Sys2Proof/Word.lean ====
section
/-! DEFINITION. The widths of CRC16U's values (spec/00_scope.md R6, R7). -/

namespace Sys2Proof

/-- A 16-bit value: a register of the window, a command word, a table entry, a CRC (R6: `REG_WIDTH`,
`CMD_WIDTH`, `TABLE_ENTRY_WIDTH`, `CRC_WIDTH`). -/
abbrev Word := BitVec 16

/-- An 8-bit value: the operand `D`, an input byte, a table index (R6: `DATA_WIDTH`). -/
abbrev Byte := BitVec 8

/-- An offset in the register window (R6: `ADDR_WIDTH`, 3 bits). -/
abbrev Offset := BitVec 3

end Sys2Proof
end

