-- ==== Sys2Proof/Syntax.lean ====
section
/-! DEFINITION. The commands of CRC16U (spec/30_encoding.md R73, spec/opcode_table.json) and the three
fields of a command word (R71). -/

namespace Sys2Proof

/-- One constructor per row of the opcode table. The operand `D` is an unsigned byte (R72). -/
inductive Instr where
  /-- NOP, 44_control.md R160. -/
  | nop
  /-- TBUILD, 41_table_generator.md R104. -/
  | tbuild
  /-- CINIT, 42_checksum.md R121. -/
  | cinit
  /-- CBYTE with its data byte, 42_checksum.md R122. -/
  | cbyte (d : Byte)
  /-- VBYTE with the received frame byte, 43_verifier.md R141. -/
  | vbyte (d : Byte)
  /-- VEND, 43_verifier.md R142. -/
  | vend
  /-- TREAD with its table index, 41_table_generator.md R106. -/
  | tread (d : Byte)
  deriving DecidableEq, Repr

/-- A command word taken apart (R71): `OP` is bits 15:12, `RSV` bits 11:8, `D` bits 7:0. -/
structure Fields where
  op : BitVec 4
  rsv : BitVec 4
  d : Byte
  deriving DecidableEq, Repr

end Sys2Proof
end

