-- ==== Sys2Proof/WellFormed.lean ====
section
/-! DEFINITION. When the fields of a command word make a legal command (spec/30_encoding.md R74). An
`Instr` needs no check of its own: its operand is a byte by its type (R72). -/

namespace Sys2Proof

/-- `OP` names a command: it is below 7 (R74, R75). -/
def Fields.opDefined (f : Fields) : Bool := decide (f.op.toNat < 7)

/-- `RSV` is zero (R71, R74). -/
def Fields.rsvZero (f : Fields) : Bool := decide (f.rsv = 0)

/-- The command takes an operand: CBYTE, VBYTE and TREAD do (R71). -/
def Fields.takesOperand (f : Fields) : Bool := decide (f.op = 3 ∨ f.op = 4 ∨ f.op = 6)

/-- `D` is zero unless the command takes an operand (R74). -/
def Fields.operandAllowed (f : Fields) : Bool := f.takesOperand || decide (f.d = 0)

/-- The word with these fields is legal (R74). -/
def Fields.wellFormed (f : Fields) : Bool := f.opDefined && f.rsvZero && f.operandAllowed

end Sys2Proof
end

