-- ==== Sys2Proof/Decode.lean ====
section
/-! DEFINITION. Decoding and encoding of command words (spec/30_encoding.md R71 to R75, R79). -/

namespace Sys2Proof

/-- The three fields of a command word (R71). -/
def fieldsOf (w : Word) : Fields :=
  { op := w.extractLsb' 12 4, rsv := w.extractLsb' 8 4, d := w.extractLsb' 0 8 }

/-- One row of the opcode map (R73): `w` is the row's command iff `w &&& mask = pattern`. -/
structure OpcodeRow where
  pattern : Word
  mask : Word
  /-- The row's command, given `D`; a command without operand drops it. -/
  command : Byte → Instr

/-- The row selects the word (R73). -/
def OpcodeRow.selects (r : OpcodeRow) (w : Word) : Bool := decide (w &&& r.mask = r.pattern)

/-- The opcode map (R73), row by row. -/
def opcodeMap : List OpcodeRow :=
  [ ⟨0x0000, 0xFFFF, fun _ => .nop⟩,
    ⟨0x1000, 0xFFFF, fun _ => .tbuild⟩,
    ⟨0x2000, 0xFFFF, fun _ => .cinit⟩,
    ⟨0x3000, 0xFF00, fun d => .cbyte d⟩,
    ⟨0x4000, 0xFF00, fun d => .vbyte d⟩,
    ⟨0x5000, 0xFFFF, fun _ => .vend⟩,
    ⟨0x6000, 0xFF00, fun d => .tread d⟩ ]

/-- The command a word stands for: the row whose pattern it matches, with `D = w[7:0]`; none for an
illegal word (R74). -/
def decode (w : Word) : Option Instr :=
  (opcodeMap.find? fun r => r.selects w).map fun r => r.command (fieldsOf w).d

/-- A command's word: its row's pattern, with `D` in bits 7:0 where it takes one (R79). -/
def encode : Instr → Word
  | .nop => 0x0000
  | .tbuild => 0x1000
  | .cinit => 0x2000
  | .cbyte d => 0x3000 ||| d.setWidth 16
  | .vbyte d => 0x4000 ||| d.setWidth 16
  | .vend => 0x5000
  | .tread d => 0x6000 ||| d.setWidth 16

/-- The command word whose low `nbits` bits are those of `w`, and whose other bits are 0. A word is a
number and has no byte order (R59, R70). -/
def tableWord (nbits w : Nat) : Word := BitVec.ofNat 16 (w % 2 ^ nbits)

/-- The command the decoder reads from a table word: every command is one 16-bit word (R70), so a
longer one is none. Log entry 13. -/
def decodeTableWord (nbits w : Nat) : Option Instr :=
  if nbits ≤ 16 then decode (tableWord nbits w) else none

end Sys2Proof
end

