-- ==== Sys2Proof/Config.lean ====
section
/-! DEFINITION. The parameters CRC16U fixes (spec/00_scope.md R6) and the one value the spec leaves
free, the contents of TABLE before it is built (spec/10_state.md R35, R37). -/

namespace Sys2Proof

/-- `POLY`, the reflected polynomial (R6). -/
def Config.poly : Word := 0x8408

/-- `INIT`, the initial value of the fold (R6). There is no final XOR (R3, R126). -/
def Config.init : Word := 0xFFFF

/-- `TABLE_ENTRIES` (R6). -/
def Config.tableEntries : Nat := 256

/-- `SHIFTS_PER_ENTRY` (R6). -/
def Config.shiftsPerEntry : Nat := 8

/-- `VCNT_MAX` (R6): VCNT stops here, and a frame needs this many bytes to be checked. -/
def Config.vcntMax : Nat := 2

/-- What entry `i` of TABLE holds after a reset, before TBUILD writes it: unspecified
(10_state.md R35; 93_implementation_defined.md row 1, `any value`). The first argument is
`State.tableDraw`, so that each reset may draw other contents. A free value: it has no body, and no
statement rests on it. Log entries 3 and 4. -/
opaque Config.tableContents (draw : Nat) (i : Byte) : Word

end Sys2Proof
end

