-- ==== Sys2Proof/Machine/State.lean ====
section
/-! DEFINITION. The state of CRC16U as plain data (spec/10_state.md R21), what the host has yet to
present at the port (spec/20_memory.md R66), and the state after reset (R35). -/

namespace Sys2Proof.Machine

/-- MODE, the kind of the open stream (R26). The code 3 is never produced (R26;
93_implementation_defined.md row 7), so it has no constructor. Log entry 7. -/
inductive Mode where
  | idle
  | compute
  | verify
  deriving DecidableEq, Repr

/-- VRES, the outcome of the last VEND (R27). -/
inductive Verdict where
  | none
  | pass
  | fail
  | short
  deriving DecidableEq, Repr

/-- The sticky error bits, one per refusal cause (R30, R201). -/
inductive ErrorBit where
  /-- ERR_ILL: the command word is illegal. -/
  | illegal
  /-- ERR_NOTABLE: the command reads TABLE while TVALID = 0. -/
  | noTable
  /-- ERR_MODE: the command belongs to the other kind of stream. -/
  | mode
  deriving DecidableEq, Repr

/-- The TABLE RAM (R31): the entries written since the last reset, as (index, entry) pairs with rising
indexes below 256. Log entry 5. -/
abbrev Table := List (Nat × Word)

/-- What the host presents at the port for one transaction (20_memory.md R66): the register offset, the
two strobes, and the data of a write. -/
structure PortRequest where
  addr : Offset
  wr : Bool
  rd : Bool
  wdata : Word
  deriving DecidableEq, Repr

/-- An input of the block: a request at the host port, or the reset input, which arrives between
transactions (70_reset_and_hazards.md R250). Log entry 6. -/
inductive HostEvent where
  | request (r : PortRequest)
  | reset
  deriving DecidableEq, Repr

/-- What the port's outputs showed at the end of the last step (20_memory.md R66). Log entry 2. -/
inductive Response where
  /-- No transaction completed (`ready` = 0). -/
  | idle
  /-- A write completed (`ready` = 1, `rdata` not defined). -/
  | done
  /-- A read completed (`ready` = 1) and `rdata` is this value. -/
  | data (v : Word)
  deriving DecidableEq, Repr

/-- The reasons a step can end in a fault: none. "The block has no traps, faults or exceptions that
change the host's flow" (60_exceptions.md R200), and the 3-bit offset leaves no address without a
register (20_memory.md R50). Nobody raises one. Log entry 10. -/
inductive Fault
  deriving DecidableEq, Repr

/-- The reasons the MODEL can have no meaning for a command. (A command CRC16U itself refuses is not
one: it sets an error bit and goes on, 60_exceptions.md R202; see `refuse` in Machine/Ops.lean.) -/
inductive Refusal where
  /-- Raised by an arm of `exec` that has no meaning yet, with the command's mnemonic; no arm raises it
  now. Safe: it claims nothing of the hardware. -/
  | notModelled (mnemonic : String)
  deriving DecidableEq, Repr

/-- The state: the block's twelve pieces (R21), then three fields of the model's own. -/
structure State where
  /-- TABLE[0..255] (R31). -/
  table : Table
  /-- TVALID (R29). -/
  tvalid : Bool
  /-- CRC (R23). -/
  crc : Word
  /-- HOLD0 (R24). -/
  hold0 : Byte
  /-- HOLD1 (R24). -/
  hold1 : Byte
  /-- VCNT, values 0 to 2 (R25). -/
  vcnt : Fin 3
  /-- MODE (R26). -/
  mode : Mode
  /-- VRES (R27). -/
  vres : Verdict
  /-- RESULT (R28). -/
  result : Word
  /-- ERR_ILL (R30). -/
  errIll : Bool
  /-- ERR_NOTABLE (R30). -/
  errNoTable : Bool
  /-- ERR_MODE (R30). -/
  errMode : Bool
  /-- The model's own: the events the host has yet to present, the next one first (20_memory.md R56).
  Log entry 1. -/
  pending : List HostEvent
  /-- The model's own: what the port answered in the last step (20_memory.md R66). Log entry 2. -/
  response : Response
  /-- The model's own: which draw the unspecified entries of TABLE come from. Log entry 4. -/
  tableDraw : Nat
  deriving DecidableEq, Repr

/-- The block right after reset (R35), with no host event pending. Nothing of TABLE is listed: its
contents are unspecified. -/
def State.reset : State where
  table := []
  tvalid := false
  crc := Config.init
  hold0 := 0
  hold1 := 0
  vcnt := 0
  mode := .idle
  vres := .none
  result := 0
  errIll := false
  errNoTable := false
  errMode := false
  pending := []
  response := .idle
  tableDraw := 0

end Sys2Proof.Machine
end

