-- ==== Sys2Proof/Machine/Flags.lean ====
section
/-! DEFINITION. The STATUS and HOLD views the host reads, computed from the fields they show
(spec/10_state.md R26, R27, R32, R33). CRC16U has no other flags (R36). -/

namespace Sys2Proof.Machine

/-- The code of MODE in STATUS[2:1] (R26). -/
def Mode.code : Mode → BitVec 2
  | .idle => 0
  | .compute => 1
  | .verify => 2

/-- The code of VRES in STATUS[4:3] (R27). -/
def Verdict.code : Verdict → BitVec 2
  | .none => 0
  | .pass => 1
  | .fail => 2
  | .short => 3

/-- VCNT as the two bits of STATUS[6:5] (R25). -/
def vcntBits (n : Fin 3) : BitVec 2 := BitVec.ofNat 2 n.val

/-- STATUS (R32), from the reserved bits 15:10, which read 0, down to TVALID in bit 0. -/
def State.status (s : State) : Word :=
  0#6 ++ BitVec.ofBool s.errMode ++ BitVec.ofBool s.errNoTable ++ BitVec.ofBool s.errIll
    ++ vcntBits s.vcnt ++ s.vres.code ++ s.mode.code ++ BitVec.ofBool s.tvalid

/-- HOLD (R33): HOLD1 in bits 15:8, HOLD0 in bits 7:0. -/
def State.hold (s : State) : Word := s.hold1 ++ s.hold0

/-- An error bit is set (STATUS[9:7] is not 0; R142, R255 d). -/
def State.anyError (s : State) : Bool := s.errIll || s.errNoTable || s.errMode

end Sys2Proof.Machine
end

