-- ==== Sys2Proof/Machine/Operands.lean ====
section
/-! DEFINITION. The operand and byte-order helpers the commands share (spec/00_scope.md R7, R8;
spec/30_encoding.md R72; spec/20_memory.md R59). -/

namespace Sys2Proof.Machine

/-- `zext_16(v)` (R8): the only extension an operand ever gets (R72). -/
def zext16 (b : Byte) : Word := b.setWidth 16

/-- `v[7:0]`, the byte sent first, CRC_lo (R59). -/
def lowByte (v : Word) : Byte := v.extractLsb' 0 8

/-- `v[15:8]`, the byte sent second, CRC_hi (R59). -/
def highByte (v : Word) : Byte := v.extractLsb' 8 8

/-- The two bytes of a CRC in the order they stand in a frame, low byte first (R59;
90_conflicts.md C1). -/
def crcBytes (v : Word) : List Byte := [lowByte v, highByte v]

end Sys2Proof.Machine
end

