-- ==== Sys2Proof/Machine/Ops.lean ====
section
/-! DEFINITION. The named operations the commands share: the table RAM, the generation function, the
fold step, refusing a command (which is CRC16U's whole exception model, spec/60_exceptions.md R200 to
R203, R209, R210), and the state updates the commands make. -/

namespace Sys2Proof.Machine

/-! ### The table RAM -/

/-- The entry written at index `i`, if one has been written since the last reset. -/
def Table.entry? : Table → Nat → Option Word
  | [], _ => none
  | (j, v) :: rest, i => if j = i then some v else Table.entry? rest i

/-- `TABLE[i] <- v` (00_scope.md R9), keeping the indexes rising. -/
def Table.write : Table → Nat → Word → Table
  | [], i, v => [(i, v)]
  | (j, u) :: rest, i, v =>
    if i < j then (i, v) :: (j, u) :: rest
    else if i = j then (i, v) :: rest
    else (j, u) :: Table.write rest i v

/-- The indexes rise strictly, start at `lo` or above, and stay below 256. -/
def Table.risesFrom : Nat → Table → Bool
  | _, [] => true
  | lo, (j, _) :: rest =>
    decide (lo ≤ j) && decide (j < Config.tableEntries) && Table.risesFrom (j + 1) rest

/-- The canonical form of the table RAM: each index once, in rising order, below 256. -/
def Table.wf (t : Table) : Bool := t.risesFrom 0

/-- `TABLE[i]` (00_scope.md R9). An entry nothing has written since reset reads as the free value
(10_state.md R35). -/
def State.tableEntry (s : State) (i : Byte) : Word :=
  (s.table.entry? i.toNat).getD (Config.tableContents s.tableDraw i)

/-! ### The generation function -/

/-- One of the 8 shifts of `gen`: shift right, then exclusive-or with POLY if the bit shifted out was
1 (41_table_generator.md R101). -/
def shiftStep (v : Word) : Word :=
  if v.getLsbD 0 then (v >>> 1) ^^^ Config.poly else v >>> 1

/-- `n` shifts. -/
def shiftSteps : Nat → Word → Word
  | 0, v => v
  | n + 1, v => shiftSteps n (shiftStep v)

/-- `gen(i)` (R101). -/
def gen (i : Byte) : Word := shiftSteps Config.shiftsPerEntry (zext16 i) &&& 0xFFFF#16

/-- `for i in 0..255: TABLE[i] <- gen(i)` (R104). The 256 writes are to different entries and take
effect together (20_memory.md R55), so their order cannot be seen. Log entry 9. (Irreducible, so that
the elaborator does not run the 256 writes; its laws are in Laws/Table.lean.) -/
@[irreducible] def Table.build (t : Table) : Table :=
  (List.range Config.tableEntries).foldr (fun i acc => acc.write i (gen (BitVec.ofNat 8 i))) t

/-! ### The fold -/

/-- The table index `step` looks up: `(c ^ zext_16(b)) & 0xFF` (42_checksum.md R123). -/
def stepIndex (c : Word) (b : Byte) : Byte := lowByte ((c ^^^ zext16 b) &&& 0xFF#16)

/-- `step(c, b)`, which reads TABLE (R123). -/
def State.foldStep (s : State) (c : Word) (b : Byte) : Word :=
  (s.tableEntry (stepIndex c b) ^^^ (c >>> 8)) &&& 0xFFFF#16

/-! ### Refusing a command -/

/-- Sets one sticky error bit; a bit already set stays set (60_exceptions.md R202). -/
def State.setError (e : ErrorBit) (s : State) : State :=
  match e with
  | .illegal => { s with errIll := true }
  | .noTable => { s with errNoTable := true }
  | .mode => { s with errMode := true }

/-- `refuse E` (R202): the error bit is set, the command ends, and no other state changes. This is the
whole effect: nothing is saved and control goes nowhere (R209), and there is no return (R210). -/
def refuse (e : ErrorBit) (s : State) : Host.Outcome State Fault Refusal := .next (s.setError e)

/-! ### The commands' state updates -/

/-- TABLE <- the generated table; TVALID <- 1 (41_table_generator.md R104). -/
def State.buildTable (s : State) : State := { s with table := s.table.build, tvalid := true }

/-- RESULT <- v (41_table_generator.md R106). -/
def State.loadResult (v : Word) (s : State) : State := { s with result := v }

/-- The start of a stream (42_checksum.md R121). -/
def State.startStream (s : State) : State :=
  { s with
    crc := Config.init, hold0 := 0, hold1 := 0, vcnt := 0, mode := .idle, vres := .none,
    errIll := false, errNoTable := false, errMode := false }

/-- CRC <- step(CRC, b); MODE <- COMPUTE; VRES <- NONE (42_checksum.md R122). -/
def State.foldByte (b : Byte) (s : State) : State :=
  { s with crc := s.foldStep s.crc b, mode := .compute, vres := .none }

/-- `min(VCNT + 1, 2)` (43_verifier.md R141). -/
def vcntNext (n : Fin 3) : Fin 3 := ⟨min (n.val + 1) Config.vcntMax, by unfold Config.vcntMax; omega⟩

/-- The delay line takes a byte (43_verifier.md R141); every right-hand side reads the state before. -/
def State.shiftIn (b : Byte) (s : State) : State :=
  { s with
    crc := if s.vcnt.val = Config.vcntMax then s.foldStep s.crc s.hold0 else s.crc
    hold0 := s.hold1, hold1 := b, vcnt := vcntNext s.vcnt, mode := .verify, vres := .none }

/-- What VEND compares (43_verifier.md R142): a set error bit first, then the length, then the held
bytes with the CRC, low byte first (20_memory.md R59). -/
def State.verdict (s : State) : Verdict :=
  if s.anyError then .fail
  else if s.vcnt.val < Config.vcntMax then .short
  else if lowByte s.crc = s.hold0 ∧ highByte s.crc = s.hold1 then .pass
  else .fail

/-- VRES <- v (43_verifier.md R142). -/
def State.setVerdict (v : Verdict) (s : State) : State := { s with vres := v }

/-! ### The port and reset -/

/-- The port's outputs at the end of the step (20_memory.md R66). -/
def State.respond (r : Response) (s : State) : State := { s with response := r }

/-- The first pending host event is taken, leaving `rest`. -/
def State.withPending (rest : List HostEvent) (s : State) : State := { s with pending := rest }

/-- Reset (70_reset_and_hazards.md R250): every piece of the block's state takes its reset value, and
TABLE is drawn anew. What the host has yet to present is the host's, and stays. Log entry 6. -/
def State.resetBlock (s : State) : State :=
  { State.reset with pending := s.pending, tableDraw := s.tableDraw + 1 }

end Sys2Proof.Machine
end

