-- ==== Sys2Proof/Machine/Checksum.lean ====
section
/-! DEFINITION. The checksum-engine commands (spec/42_checksum.md R121, R122). -/

namespace Sys2Proof.Machine

/-- CINIT (R121): needs no table, and is the only command that clears the error bits. -/
def execCinit (s : State) : Host.Outcome State Fault Refusal := .next s.startStream

/-- CBYTE (R122): the checks in the order of 60_exceptions.md R203, then one fold step. -/
def execCbyte (d : Byte) (s : State) : Host.Outcome State Fault Refusal :=
  if s.tvalid = false then refuse .noTable s
  else if s.mode = .verify then refuse .mode s
  else .next (s.foldByte d)

end Sys2Proof.Machine
end

