-- ==== Sys2Proof/Machine/Control.lean ====
section
/-! DEFINITION. The control command (spec/44_control.md). CRC16U has no control-transfer or system
commands (R161, R162). -/

namespace Sys2Proof.Machine

/-- NOP does nothing (R160). -/
def execNop (s : State) : Host.Outcome State Fault Refusal := .next s

end Sys2Proof.Machine
end

