-- ==== Sys2Proof/Machine/TableGenerator.lean ====
section
/-! DEFINITION. The table-generator commands (spec/41_table_generator.md R104, R106). -/

namespace Sys2Proof.Machine

/-- TBUILD (R104): legal in every MODE and whatever TVALID is. -/
def execTbuild (s : State) : Host.Outcome State Fault Refusal := .next s.buildTable

/-- TREAD (R106): refused while the table is not built. -/
def execTread (d : Byte) (s : State) : Host.Outcome State Fault Refusal :=
  if s.tvalid = false then refuse .noTable s
  else .next (s.loadResult (s.tableEntry d))

end Sys2Proof.Machine
end

