-- ==== Sys2Proof/Machine/Verifier.lean ====
section
/-! DEFINITION. The frame-verifier commands (spec/43_verifier.md R141, R142). -/

namespace Sys2Proof.Machine

/-- VBYTE (R141): the checks in the order of 60_exceptions.md R203, then the delay line shifts. -/
def execVbyte (d : Byte) (s : State) : Host.Outcome State Fault Refusal :=
  if s.tvalid = false then refuse .noTable s
  else if s.mode = .compute then refuse .mode s
  else .next (s.shiftIn d)

/-- VEND (R142): reads no table, so it is legal while TVALID = 0. -/
def execVend (s : State) : Host.Outcome State Fault Refusal :=
  if s.mode = .compute then refuse .mode s
  else .next (s.setVerdict s.verdict)

end Sys2Proof.Machine
end

