-- ==== Sys2Proof/Machine/Dispatch.lean ====
section
/-! DEFINITION. The meaning of each command: one arm per constructor of Instr. -/

namespace Sys2Proof.Machine

/-- What a decoded command does (spec/30_encoding.md R73). -/
def exec (i : Instr) (s : State) : Host.Outcome State Fault Refusal :=
  match i with
  | .nop => Sys2Proof.Machine.execNop s
  | .tbuild => Sys2Proof.Machine.execTbuild s
  | .cinit => Sys2Proof.Machine.execCinit s
  | .cbyte d => Sys2Proof.Machine.execCbyte d s
  | .vbyte d => Sys2Proof.Machine.execVbyte d s
  | .vend => Sys2Proof.Machine.execVend s
  | .tread d => Sys2Proof.Machine.execTread d s

end Sys2Proof.Machine
end

