-- ==== Sys2Proof/Machine/Window.lean ====
section
/-! DEFINITION. The register window and what one host event does to the block (spec/20_memory.md R50 to
R54, R66; spec/70_reset_and_hazards.md R250). -/

namespace Sys2Proof.Machine

/-- The registers of the window (R51). -/
inductive WindowRegister where
  | cmd
  | crc
  | result
  | status
  | hold
  | reserved
  deriving DecidableEq, Repr

/-- The register at an offset (R51). -/
def registerAt (off : Offset) : WindowRegister :=
  match off.toNat with
  | 0 => .cmd
  | 1 => .crc
  | 2 => .result
  | 3 => .status
  | 4 => .hold
  | _ => .reserved

/-- The read value of a register (R51, R54). -/
def State.readRegister (s : State) : WindowRegister → Word
  | .cmd => 0
  | .crc => s.crc
  | .result => s.result
  | .status => s.status
  | .hold => s.hold
  | .reserved => 0

/-- The value `HostRead(off)` returns (R54). -/
def State.hostRead (s : State) (off : Offset) : Word := s.readRegister (registerAt off)

/-- A word written to CMD is executed as one command (R52); an illegal one is refused with ERR_ILL
before any other check (30_encoding.md R74; 60_exceptions.md R203). -/
def commandWrite (w : Word) (s : State) : Host.Outcome State Fault Refusal :=
  match decode w with
  | some i => exec i s
  | none => refuse .illegal s

/-- `HostWrite(off, v)`: a command at CMD (R52), and no effect at every other offset (R53). -/
def hostWrite (off : Offset) (v : Word) (s : State) : Host.Outcome State Fault Refusal :=
  match registerAt off with
  | .cmd => commandWrite v s
  | .crc => .next s
  | .result => .next s
  | .status => .next s
  | .hold => .next s
  | .reserved => .next s

/-- A host transaction (00_scope.md R9). -/
inductive Transaction where
  | write (off : Offset) (v : Word)
  | read (off : Offset)
  deriving DecidableEq, Repr

/-- The transaction a request at the port makes (R66): a write if `wr` is set, with or without `rd`;
a read if only `rd` is; none if neither is (log entry 8). -/
def PortRequest.transaction (r : PortRequest) : Option Transaction :=
  if r.wr then some (.write r.addr r.wdata)
  else if r.rd then some (.read r.addr)
  else none

/-- One request at the port, performed to its end (R52, R54, R55). A read returns its value in the
response and changes nothing else. -/
def performRequest (r : PortRequest) (s : State) : Host.Outcome State Fault Refusal :=
  match r.transaction with
  | some (.write off v) => hostWrite off v (s.respond .done)
  | some (.read off) => .next (s.respond (.data (s.hostRead off)))
  | none => .next (s.respond .idle)

/-- One host event: a request at the port, or a reset (70_reset_and_hazards.md R250). -/
def performEvent (e : HostEvent) (s : State) : Host.Outcome State Fault Refusal :=
  match e with
  | .request r => performRequest r s
  | .reset => .next s.resetBlock

/-- The request that writes a word to CMD (R52). -/
def cmdRequest (w : Word) : HostEvent := .request { addr := 0, wr := true, rd := false, wdata := w }

/-- The request that reads a register of the window (R54). -/
def readRequest (off : Offset) : HostEvent :=
  .request { addr := off, wr := false, rd := true, wdata := 0 }

/-- The block with nothing presented at its port waits (70_reset_and_hazards.md R251). -/
def wait (s : State) : Host.Outcome State Fault Refusal := .next (s.respond .idle)

end Sys2Proof.Machine
end

