-- ==== Sys2Proof/Machine/Step.lean ====
section
/-! DEFINITION. One step of the machine: the next host event, performed to its end
(spec/10_state.md R20; spec/20_memory.md R55, R56, R66). -/

namespace Sys2Proof.Machine

/-- The first pending event is performed; with none pending the block waits. -/
def step (s : State) : Host.Outcome State Fault Refusal :=
  match s.pending with
  | [] => wait s
  | e :: rest => performEvent e (s.withPending rest)

/-- CRC16U fetches nothing (spec/20_memory.md R60): a command reaches it as the host's next write to
CMD, so the word is placed as the first pending request. Log entries 1 and 13. -/
def State.withFetchWord (s : State) (nbits w : Nat) : State :=
  s.withPending (cmdRequest (tableWord nbits w) :: s.pending)

end Sys2Proof.Machine
end

