-- ==== Sys2Proof/Machine/Program.lean ====
section
/-! DEFINITION. Command sequences: the two pseudo-instructions (spec/30_encoding.md R78), the
requests by which a host issues a sequence (spec/20_memory.md R52, R56), and its effect. -/

namespace Sys2Proof.Machine

/-- `CRC16 b0, …` (R78): CINIT, then one CBYTE per byte. -/
def crc16Commands (bytes : List Byte) : List Instr := .cinit :: bytes.map Instr.cbyte

/-- `VERIFY b0, …` (R78): CINIT, one VBYTE per byte, then VEND. -/
def verifyCommands (bytes : List Byte) : List Instr :=
  .cinit :: (bytes.map Instr.vbyte ++ [.vend])

/-- The commands in order, each on the state the one before left (20_memory.md R56). -/
def execAll : List Instr → State → Host.Outcome State Fault Refusal
  | [], s => .next s
  | i :: rest, s =>
    match exec i s with
    | .next t => execAll rest t
    | .fault r => .fault r
    | .refused r => .refused r

/-- The requests of a host that writes the commands to CMD one by one (R52, R79). -/
def cmdRequests (commands : List Instr) : List HostEvent :=
  commands.map fun i => cmdRequest (encode i)

end Sys2Proof.Machine
end

