-- ==== Sys2Proof/Machine/Assembler.lean ====
section
/-! DEFINITION. The assembler syntax of spec/30_encoding.md R77 and R78, on text as a list of
characters. What R77 leaves open about spacing is log entry 15. -/

namespace Sys2Proof.Machine

/-- Splits at every separator character. -/
def splitChars (sep : Char) : List Char → List (List Char)
  | [] => [[]]
  | c :: cs =>
    if c = sep then [] :: splitChars sep cs
    else
      match splitChars sep cs with
      | [] => [[c]]
      | p :: ps => (c :: p) :: ps

/-- A space, a tab or a carriage return. Log entry 15. -/
def isBlank (c : Char) : Bool := decide (c = ' ' ∨ c = '\t' ∨ c = '\r')

/-- The text without blanks at either end. -/
def trimBlanks (cs : List Char) : List Char :=
  ((cs.dropWhile isBlank).reverse.dropWhile isBlank).reverse

/-- The text without a comment: `;` starts one that runs to the end of the line (R77). -/
def stripComment (cs : List Char) : List Char := cs.takeWhile fun c => decide (c ≠ ';')

/-- The value of a digit, decimal or hexadecimal. -/
def digitValue (c : Char) : Option Nat :=
  if '0' ≤ c ∧ c ≤ '9' then some (c.toNat - '0'.toNat)
  else if 'a' ≤ c ∧ c ≤ 'f' then some (c.toNat - 'a'.toNat + 10)
  else if 'A' ≤ c ∧ c ≤ 'F' then some (c.toNat - 'A'.toNat + 10)
  else none

/-- The value of the digits in a base, on top of the value of those before; a digit out of the base is
an error. -/
def digitsValue (base : Nat) : Nat → List Char → Option Nat
  | acc, [] => some acc
  | acc, c :: cs =>
    match digitValue c with
    | some v => if v < base then digitsValue base (acc * base + v) cs else none
    | none => none

/-- A decimal number or a `0x` hexadecimal number (R77); an empty one is an error. -/
def parseNumber (cs : List Char) : Option Nat :=
  match cs with
  | [] => none
  | ['0', 'x'] => none
  | '0' :: 'x' :: ds => digitsValue 16 0 ds
  | ds => digitsValue 10 0 ds

/-- An operand in 0..255; any other, a missing one among them, is an assembly error (R77). -/
def parseByte (cs : List Char) : Option Byte :=
  match parseNumber cs with
  | some n => if n < 256 then some (BitVec.ofNat 8 n) else none
  | none => none

/-- The operand of `.word`, a 16-bit value (R77). -/
def parseWord (cs : List Char) : Option Word :=
  match parseNumber cs with
  | some n => if n < 65536 then some (BitVec.ofNat 16 n) else none
  | none => none

/-- Every text of the list as a byte. -/
def parseBytes : List (List Char) → Option (List Byte)
  | [] => some []
  | cs :: rest =>
    match parseByte (trimBlanks cs), parseBytes rest with
    | some b, some bs => some (b :: bs)
    | _, _ => none

/-- The operands of a pseudo-instruction, separated by commas; there may be none (R78). -/
def parseByteList (cs : List Char) : Option (List Byte) :=
  if cs = [] then some [] else parseBytes (splitChars ',' cs)

/-- A command without operand: nothing may follow it (R77). -/
def assemblePlain (i : Instr) (operand : List Char) : Option (List Word) :=
  if operand = [] then some [encode i] else none

/-- The words of one line, given its mnemonic and the text after it (R77, R78). -/
def assembleMnemonic (mnemonic operand : List Char) : Option (List Word) :=
  if mnemonic = "NOP".toList then assemblePlain .nop operand
  else if mnemonic = "TBUILD".toList then assemblePlain .tbuild operand
  else if mnemonic = "CINIT".toList then assemblePlain .cinit operand
  else if mnemonic = "CBYTE".toList then (parseByte operand).map fun d => [encode (.cbyte d)]
  else if mnemonic = "VBYTE".toList then (parseByte operand).map fun d => [encode (.vbyte d)]
  else if mnemonic = "VEND".toList then assemblePlain .vend operand
  else if mnemonic = "TREAD".toList then (parseByte operand).map fun d => [encode (.tread d)]
  else if mnemonic = ".word".toList then (parseWord operand).map fun w => [w]
  else if mnemonic = "CRC16".toList then
    (parseByteList operand).map fun bs => (crc16Commands bs).map encode
  else if mnemonic = "VERIFY".toList then
    (parseByteList operand).map fun bs => (verifyCommands bs).map encode
  else none

/-- The words of one line; a line that is blank but for a comment has none. -/
def assembleLine (line : List Char) : Option (List Word) :=
  let text := trimBlanks (stripComment line)
  if text = [] then some []
  else
    assembleMnemonic (text.takeWhile fun c => !isBlank c)
      (trimBlanks (text.dropWhile fun c => !isBlank c))

/-- The words of the lines in order; one error makes the whole an error. -/
def assembleLines : List (List Char) → Option (List Word)
  | [] => some []
  | l :: rest =>
    match assembleLine l, assembleLines rest with
    | some ws, some more => some (ws ++ more)
    | _, _ => none

/-- The command words a text stands for (R77), or none where it has an assembly error. -/
def assemble (text : List Char) : Option (List Word) := assembleLines (splitChars '\n' text)

/-- A hexadecimal digit. -/
def hexDigit (n : Nat) : Char :=
  if n < 10 then Char.ofNat ('0'.toNat + n) else Char.ofNat ('A'.toNat + (n - 10))

/-- A byte as `0x` and two digits. -/
def showByte (b : Byte) : List Char :=
  ['0', 'x', hexDigit (b.toNat / 16), hexDigit (b.toNat % 16)]

/-- A command as R77 writes it: the mnemonic alone, or the mnemonic, a space and the operand. -/
def showInstr : Instr → List Char
  | .nop => "NOP".toList
  | .tbuild => "TBUILD".toList
  | .cinit => "CINIT".toList
  | .cbyte d => "CBYTE ".toList ++ showByte d
  | .vbyte d => "VBYTE ".toList ++ showByte d
  | .vend => "VEND".toList
  | .tread d => "TREAD ".toList ++ showByte d

/-- A command sequence, one command per line (R77). -/
def showProgram (commands : List Instr) : List Char :=
  commands.flatMap fun i => showInstr i ++ ['\n']

end Sys2Proof.Machine
end

