-- ==== Sys2Proof/Machine/Reference.lean ====
section
/-! DEFINITION. The pure functions the spec's rules speak of beside the commands (spec/00_scope.md R10;
spec/42_checksum.md R125, R127; spec/43_verifier.md R140), the decoder as R74's pseudocode has it, and
the table of refusal causes (spec/60_exceptions.md R201, R203). No command's meaning calls them. -/

namespace Sys2Proof.Machine

/-- `step(c, b)` over the generated table, `TABLE[k] = gen(k)` (R123). -/
def crcStep (c : Word) (b : Byte) : Word := (gen (stepIndex c b) ^^^ (c >>> 8)) &&& 0xFFFF#16

/-- `crc16(S)` (R125): the fold of `step` from INIT, with no final XOR (R126). -/
def crc16 (bytes : List Byte) : Word := bytes.foldl crcStep Config.init

/-- `bitstep(c, b)` (R127): the bitwise reflected CRC step. -/
def bitStep (c : Word) (b : Byte) : Word := shiftSteps Config.shiftsPerEntry (c ^^^ zext16 b)

/-- The bytes of a frame but the last two (R140). -/
def framePrefix (frame : List Byte) : List Byte := frame.take (frame.length - 2)

/-- The last two bytes of a frame (R140). -/
def frameTrailer (frame : List Byte) : List Byte := frame.drop (frame.length - 2)

/-- `verify(F)` for a frame of at least two bytes (R140). On a shorter one, where the document gives no
meaning, it is false; log entry 17. -/
def verifyFrame (frame : List Byte) : Bool :=
  decide (frameTrailer frame = crcBytes (crc16 (framePrefix frame)))

/-- The verdict of R144 on a whole frame. -/
def frameVerdict (frame : List Byte) : Verdict :=
  if frame.length < 2 then .short
  else if verifyFrame frame then .pass
  else .fail

/-- The decoder as R74's pseudocode has it, from the three fields; the model's `decode` follows the
mask-and-pattern table of R73. -/
def decodeFields (f : Fields) : Option Instr :=
  if 7 ≤ f.op.toNat ∨ f.rsv ≠ 0 then none
  else if (f.op = 0 ∨ f.op = 1 ∨ f.op = 2 ∨ f.op = 5) ∧ f.d ≠ 0 then none
  else
    match f.op.toNat with
    | 0 => some .nop
    | 1 => some .tbuild
    | 2 => some .cinit
    | 3 => some (.cbyte f.d)
    | 4 => some (.vbyte f.d)
    | 5 => some .vend
    | _ => some (.tread f.d)

/-- The command reads TABLE: the "raised by" column of ERR_NOTABLE (R201). -/
def readsTable : Instr → Bool
  | .nop => false
  | .tbuild => false
  | .cinit => false
  | .cbyte _ => true
  | .vbyte _ => true
  | .vend => false
  | .tread _ => true

/-- The command belongs to the other kind of stream: the cause of ERR_MODE (R201). -/
def wrongStream : Instr → Mode → Bool
  | .nop, _ => false
  | .tbuild, _ => false
  | .cinit, _ => false
  | .cbyte _, m => decide (m = .verify)
  | .vbyte _, m => decide (m = .compute)
  | .vend, m => decide (m = .compute)
  | .tread _, _ => false

/-- The first cause that applies to a word written to CMD, in the order of R203. -/
def refusalCause (w : Word) (s : State) : Option ErrorBit :=
  match decode w with
  | none => some .illegal
  | some i =>
    if readsTable i && !s.tvalid then some .noTable
    else if wrongStream i s.mode then some .mode
    else none

end Sys2Proof.Machine
end

