-- ==== Sys2Proof/Safety.lean ====
section
/-! DEFINITION. The terms claims are stated in: the invariant every step keeps, the table being built,
agreement of two states up to what the spec calls unobservable, and the host's duties
(spec/70_reset_and_hazards.md R255; spec/43_verifier.md R149). -/

namespace Sys2Proof.Machine

/-- `n` steps, stopping at the first that is not a next state. It is the host's `Host.Core.run` for this
machine (Laws/Run.lean), over the model's own types. -/
def run : Nat → State → Host.Outcome State Fault Refusal
  | 0, s => .next s
  | n + 1, s =>
    match step s with
    | .next t => run n t
    | .fault r => .fault r
    | .refused r => .refused r

/-- TABLE holds the generated table (spec/42_checksum.md R123: "`TABLE[k] = gen(k)`"). -/
def TableBuilt (s : State) : Prop := ∀ k : Byte, s.tableEntry k = gen k

/-- The values of 10_state.md R35; TABLE is unspecified, so its entries are those of some draw. -/
structure ResetValues (s : State) : Prop where
  tvalid : s.tvalid = false
  crc : s.crc = 0xFFFF
  hold0 : s.hold0 = 0x00
  hold1 : s.hold1 = 0x00
  vcnt : s.vcnt = 0
  mode : s.mode = .idle
  vres : s.vres = .none
  result : s.result = 0x0000
  errIll : s.errIll = false
  errNoTable : s.errNoTable = false
  errMode : s.errMode = false
  table : ∃ draw : Nat, ∀ i : Byte, s.tableEntry i = Config.tableContents draw i

/-- What holds of the block after reset and after every step. -/
structure Invariant (s : State) : Prop where
  /-- TABLE keeps its canonical form. -/
  table_wf : s.table.wf = true
  /-- While TVALID = 1, TABLE holds the generated table (10_state.md R29, R31). -/
  built : s.tvalid = true → ∀ k : Byte, s.table.entry? k.toNat = some (gen k)
  /-- "`MODE != IDLE` implies `TVALID = 1`" (60_exceptions.md R203). -/
  stream_needs_table : s.mode ≠ .idle → s.tvalid = true
  /-- Only an accepted VBYTE fills the delay line (10_state.md R24, R25). -/
  delay_line_empty : s.mode ≠ .verify → s.hold0 = 0 ∧ s.hold1 = 0 ∧ s.vcnt = 0
  /-- An accepted VBYTE counts (43_verifier.md R141). -/
  verify_counts : s.mode = .verify → s.vcnt ≠ 0
  /-- HOLD0 is still clear after one byte (43_verifier.md R143). -/
  first_byte : s.vcnt = 1 → s.hold0 = 0
  /-- CRC holds INIT until a byte has been folded (43_verifier.md R143, 42_checksum.md R126). -/
  nothing_folded : s.mode ≠ .compute → s.vcnt ≠ 2 → s.crc = Config.init
  /-- A verdict belongs to no checksum stream (10_state.md R27, 43_verifier.md R142). -/
  no_verdict_in_compute : s.mode = .compute → s.vres = .none
  /-- PASS stands only beside held bytes that are the CRC, low byte first (43_verifier.md R142). -/
  pass_matches : s.vres = .pass → s.vcnt = 2 ∧ lowByte s.crc = s.hold0 ∧ highByte s.crc = s.hold1
  /-- SHORT stands only beside fewer than two bytes (10_state.md R27). -/
  short_counts : s.vres = .short → s.vcnt ≠ 2

/-- Two states that differ at most in TABLE's unspecified contents: either TVALID = 0, or the entries
agree (10_state.md R29, R37: contents from before the first TBUILD are unobservable). -/
structure AgreeButDraw (s t : State) : Prop where
  tvalid : s.tvalid = t.tvalid
  entries : s.tvalid = true → ∀ k : Byte, s.tableEntry k = t.tableEntry k
  crc : s.crc = t.crc
  hold0 : s.hold0 = t.hold0
  hold1 : s.hold1 = t.hold1
  vcnt : s.vcnt = t.vcnt
  mode : s.mode = t.mode
  vres : s.vres = t.vres
  result : s.result = t.result
  errIll : s.errIll = t.errIll
  errNoTable : s.errNoTable = t.errNoTable
  errMode : s.errMode = t.errMode
  pending : s.pending = t.pending
  response : s.response = t.response

/-- The byte a VBYTE takes (43_verifier.md R141); no other command has one. -/
def vbyteOf : Instr → Option Byte
  | .nop => none
  | .tbuild => none
  | .cinit => none
  | .cbyte _ => none
  | .vbyte d => some d
  | .vend => none
  | .tread _ => none

/-- The commands of a verification stream and those that do not disturb one: VBYTE, VEND, TBUILD, TREAD
and NOP (43_verifier.md R143). -/
def keepsVerifyStream : Instr → Bool
  | .nop => true
  | .tbuild => true
  | .cinit => false
  | .cbyte _ => false
  | .vbyte _ => true
  | .vend => true
  | .tread _ => true

/-! ### The host's duties (R255) and its reading of VRES (R149) -/

/-- Duty (a): the table is built before the byte commands (R252, R255). -/
def tableReady (s : State) : Bool := s.tvalid

/-- Duty (b): a stream begins in the state CINIT or reset leaves (R253, R255). -/
def streamFresh (s : State) : Bool :=
  decide (s.mode = .idle ∧ s.vres = .none ∧ s.vcnt = 0 ∧ s.crc = Config.init) && !s.anyError

/-- Duty (d): CRC is used only if no error bit is set (R204, R255). -/
def crcUsable (s : State) : Bool := !s.anyError

/-- What the host makes of VRES (R149). -/
inductive HostVerdict where
  /-- The frame's CRC is good: the payload may be decoded. -/
  | trusted
  /-- The document's `IntegrityError`. -/
  | integrityError
  /-- A failure: a frame too short, or no verdict. -/
  | failure
  deriving DecidableEq, Repr

/-- The host's reading of VRES after VEND (R149). -/
def hostVerdict : Verdict → HostVerdict
  | .pass => .trusted
  | .fail => .integrityError
  | .short => .failure
  | .none => .failure

/-- Duty (e): a frame is accepted only when VRES = PASS (R149, R255). -/
def frameAccepted (s : State) : Bool := decide (hostVerdict s.vres = .trusted)

/-- Duty (f): the host's own length floor, `MIN_RESPONSE_LEN`, which the spec leaves open and takes as
an argument (00_scope.md R6; 92_eei_decisions.md D20). Log entry 16. -/
def longEnough (minResponseLen : Nat) (frame : List Byte) : Bool :=
  decide (minResponseLen ≤ frame.length)

end Sys2Proof.Machine
end

