-- ==== Sys2Proof/Certificates/Slice0/Obligations.lean ====
section
/-! DEFINITION. The statements about CRC16U for the provers. Rule numbers are those of spec/. -/

open Sys2Proof Sys2Proof.Machine

/-! ### Reset and the invariant -/

/-- R250: reset, which may come before any transaction, sets every piece of state to its value, TABLE
left unspecified (some draw of the free value); and power-on is a reset. -/
def Obligations.ResetSetsEveryPieceOfState : Prop :=
  ResetValues State.reset ∧
  ∀ (s : State) (rest : List HostEvent), s.pending = .reset :: rest →
    ∃ t : State, step s = .next t ∧ ResetValues t

/-- 70_reset_and_hazards.md section 2: a stream that starts right after reset needs no CINIT, since a
CINIT there changes nothing. -/
def Obligations.ResetLeavesStreamAsCinitDoes : Prop :=
  ∀ s : State, ResetValues s → exec .cinit s = .next s

/-- The invariant of Safety.lean holds after reset. -/
def Obligations.InvariantHoldsAtReset : Prop := Invariant State.reset

/-- Every step, from every state that meets the invariant and whatever the host presents, leaves a
state that meets it. -/
def Obligations.StepKeepsInvariant : Prop :=
  ∀ s t : State, Invariant s → step s = .next t → Invariant t

/-! ### Encoding -/

/-- 30_encoding.md section 4 (encoding of a command): the decoder reads back every encoded command,
with its operand. -/
def Obligations.DecodeEncodeRoundTrip : Prop :=
  ∀ i : Instr, decode (encode i) = some i

/-- 30_encoding.md section 2: a word that decodes is the one word of its command. -/
def Obligations.EncodeDecodeRoundTrip : Prop :=
  ∀ (w : Word) (i : Instr), decode w = some i → encode i = w

/-- R74: the decoder by masks and patterns agrees with the rule's pseudocode on all words; a word is
illegal exactly under the three conditions; and an illegal word is refused with ERR_ILL and changes
nothing else, whatever TVALID and MODE are. -/
def Obligations.DecodeFollowsFieldPseudocode : Prop :=
  ∀ w : Word,
    decode w = decodeFields (fieldsOf w) ∧
    (decode w = none ↔
      (7 ≤ (fieldsOf w).op.toNat ∨ (fieldsOf w).rsv ≠ 0 ∨
        ((fieldsOf w).d ≠ 0 ∧
          ((fieldsOf w).op = 0 ∨ (fieldsOf w).op = 1 ∨ (fieldsOf w).op = 2 ∨ (fieldsOf w).op = 5)))) ∧
    (∀ row ∈ opcodeMap, w &&& row.mask = row.pattern →
      decode w = some (row.command (w.extractLsb' 0 8))) ∧
    (decode w = none → ∀ s : State, commandWrite w s = .next { s with errIll := true })

/-- 30_encoding.md section 2: no two rows of the opcode map match the same word. -/
def Obligations.OpcodeRowsNeverOverlap : Prop :=
  opcodeMap.Pairwise fun r q => ∀ w : Word, ¬ (w &&& r.mask = r.pattern ∧ w &&& q.mask = q.pattern)

/-- 30_encoding.md section 4 and 95_test_vectors.md section 3.1: some words, and what they decode to. -/
def Obligations.DecodeKnownWords : Prop :=
  decode 0x0000 = some .nop ∧ decode 0x1000 = some .tbuild ∧ decode 0x2000 = some .cinit ∧
  decode 0x30DD = some (.cbyte 0xDD) ∧ decode 0x4021 = some (.vbyte 0x21) ∧
  decode 0x5000 = some .vend ∧ decode 0x6080 = some (.tread 128) ∧
  decode 0x0001 = none ∧ decode 0x0100 = none ∧ decode 0x2001 = none ∧ decode 0x4F00 = none ∧
  decode 0x6100 = none ∧ decode 0x7000 = none ∧ decode 0xFFFF = none

/-! ### The host's transactions -/

/-- R52: `HostWrite(0, w)` decodes w and performs that command, and the transaction completes (the
response) in the same step as the command's effects. A step does nothing more than take the request off
the host's list and set the port's response, which are the model's own fields (log entries 1 and 2). -/
def Obligations.StepRunsDecodedCommand : Prop :=
  ∀ (s : State) (rest : List HostEvent) (rd : Bool) (w : Word),
    s.pending = .request { addr := 0, wr := true, rd := rd, wdata := w } :: rest →
    (∀ i : Instr, decode w = some i →
      step s = exec i { s with pending := rest, response := .done }) ∧
    (decode w = none →
      step s = .next { s with pending := rest, response := .done, errIll := true })

/-- R54: `HostRead(off)` returns the value of R51's table and changes no state of the block. The list
of pending events and the response are the model's own fields (log entries 1 and 2). -/
def Obligations.HostReadReturnsRegister : Prop :=
  ∀ (s : State) (rest : List HostEvent) (off : Offset) (x : Word),
    s.pending = .request { addr := off, wr := false, rd := true, wdata := x } :: rest →
    step s = .next
      { s with
        pending := rest
        response := .data
          (if off = 1 then s.crc
          else if off = 2 then s.result
          else if off = 3 then s.status
          else if off = 4 then s.hold1 ++ s.hold0
          else 0x0000) }

/-- R53: `HostWrite(off, v)` with off in 1..7 has no effect on the block's state, sets no error bit,
and completes at once; also when `rd` is asserted with `wr`. The list of pending events and the
response are the model's own fields (log entries 1 and 2). -/
def Obligations.WritesToOtherOffsetsIgnored : Prop :=
  ∀ (s : State) (rest : List HostEvent) (off : Offset) (rd : Bool) (v : Word), off ≠ 0 →
    s.pending = .request { addr := off, wr := true, rd := rd, wdata := v } :: rest →
    step s = .next { s with pending := rest, response := .done }

/-- 10_state.md section 4 (STATUS): every field stands at its bits with its code, the reserved bits
read 0, and MODE and VCNT never read 3. -/
def Obligations.StatusShowsEveryField : Prop :=
  ∀ s : State,
    s.status.getLsbD 0 = s.tvalid ∧
    s.status.extractLsb' 1 2
      = (if s.mode = .idle then 0 else if s.mode = .compute then 1 else 2) ∧
    s.status.extractLsb' 3 2
      = (if s.vres = .none then 0 else if s.vres = .pass then 1 else if s.vres = .fail then 2
         else 3) ∧
    (s.status.extractLsb' 5 2).toNat = s.vcnt.val ∧
    s.status.getLsbD 7 = s.errIll ∧ s.status.getLsbD 8 = s.errNoTable ∧
    s.status.getLsbD 9 = s.errMode ∧ s.status.extractLsb' 10 6 = 0 ∧
    s.status.extractLsb' 1 2 ≠ 3 ∧ s.status.extractLsb' 5 2 ≠ 3

/-- 70_reset_and_hazards.md section 1 ("it waits for the first CMD write"): with nothing presented at
the port, a step changes nothing but the port's response. That a wait is a step at all is the model's
choice, log entry 1. -/
def Obligations.IdleStepWaits : Prop :=
  ∀ s : State, s.pending = [] → step s = .next { s with response := .idle }

/-- 70_reset_and_hazards.md section 4 (liveness): no step faults, is refused or hangs; each takes one
event off the host's list, so all that is pending completes. That the host's events stand in a list, and
that a reset leaves the later ones there, is the model's choice (log entries 1 and 6). -/
def Obligations.EveryTransactionCompletes : Prop :=
  (∀ s : State, ∃ t : State, step s = .next t ∧ t.pending = s.pending.tail) ∧
  ∀ s : State, ∃ t : State,
    run s.pending.length s = .next t ∧ t.pending = []

/-- 20_memory.md section 3: a host's command writes are performed one at a time in the order issued.
The run over the pending writes is the commands' meanings one after another, and what is pending after
them is untouched. -/
def Obligations.PendingCommandsRunInOrder : Prop :=
  ∀ (commands : List Instr) (rest : List HostEvent) (s : State), commands ≠ [] →
    s.pending = cmdRequests commands ++ rest →
    ∃ t : State,
      execAll commands { s with pending := rest, response := .done } = .next t ∧
      t.pending = rest ∧ t.response = .done ∧
      run commands.length s = .next t

/-! ### The commands -/

/-- R160: NOP does nothing, in every state; the other words with OP = 0 are illegal; and a NOP between
CINIT and VEND changes nothing of the result. -/
def Obligations.NopDoesNothing : Prop :=
  ∀ s : State,
    exec .nop s = .next s ∧ commandWrite 0x0000 s = .next s ∧
    (∀ w : Word, (fieldsOf w).op = 0 → w ≠ 0x0000 →
      commandWrite w s = .next { s with errIll := true }) ∧
    ∃ t : State, execAll [.cinit, .nop, .vend] s = .next t ∧
      execAll [.cinit, .vend] s = .next t ∧ t.vres = .short

/-- R104: TBUILD, in every state, leaves gen(i) at every index, sets TVALID and writes nothing else;
the other words with OP = 1 are illegal; rebuilding a valid table keeps every entry; a stream's
ERR_NOTABLE stays, so its VEND reports FAIL; and the rule's example from reset. -/
def Obligations.TbuildWritesGeneratedTable : Prop :=
  (∀ s : State, ∃ t : State,
    exec .tbuild s = .next t ∧ commandWrite 0x1000 s = .next t ∧
    t = { s with table := t.table, tvalid := true } ∧
    (∀ i : Byte, t.tableEntry i = gen i) ∧
    (∀ w : Word, (fieldsOf w).op = 1 → w ≠ 0x1000 →
      commandWrite w s = .next { s with errIll := true }) ∧
    (Invariant s → s.tvalid = true → ∀ i : Byte, t.tableEntry i = s.tableEntry i) ∧
    (s.errNoTable = true → s.mode ≠ .compute → exec .vend t = .next { t with vres := .fail })) ∧
  ∃ t u : State, exec .tbuild State.reset = .next t ∧ t.status = 0x0001 ∧
    exec (.tread 1) t = .next u ∧ u.result = 0x1189

/-- R105: two TBUILDs leave the same 256 entries and the second changes no state; each entry is a
function of its index alone; and no command stores another value than gen(i) at index i. -/
def Obligations.SecondTbuildChangesNothing : Prop :=
  (∀ s t : State, s.table.wf = true → exec .tbuild s = .next t →
    exec .tbuild t = .next t ∧ ∀ i : Byte, t.table.entry? i.toNat = some (gen i)) ∧
  (∀ (i : Instr) (s t : State), exec i s = .next t → ∀ k : Byte,
    t.table.entry? k.toNat = s.table.entry? k.toNat ∨ t.table.entry? k.toNat = some (gen k))

/-- R106: TREAD copies TABLE[D] into RESULT and writes nothing else; it is refused with ERR_NOTABLE
while TVALID = 0, keeping RESULT; a word with RSV not 0 is illegal; after TBUILD it gives gen(D), with
the rule's values. -/
def Obligations.TreadCopiesEntry : Prop :=
  (∀ (s : State) (d : Byte),
    commandWrite (0x6000 ||| d.setWidth 16) s = exec (.tread d) s ∧
    (s.tvalid = true → exec (.tread d) s = .next { s with result := s.tableEntry d }) ∧
    (s.tvalid = false → exec (.tread d) s = .next { s with errNoTable := true }) ∧
    (∀ w : Word, (fieldsOf w).op = 6 → (fieldsOf w).rsv ≠ 0 →
      commandWrite w s = .next { s with errIll := true }) ∧
    (∀ t : State, exec .tbuild s = .next t → exec (.tread d) t = .next { t with result := gen d })) ∧
  gen 0 = 0x0000 ∧ gen 255 = 0x0F78 ∧ gen 0x80 = 0x8408

/-- R121: CINIT, in every state, sets the stream's state and clears the error bits, and leaves TVALID,
TABLE and RESULT; the other words with OP = 2 are illegal and clear nothing; a second CINIT changes
nothing; no other command clears an error bit; and the rule's example. -/
def Obligations.CinitStartsStream : Prop :=
  (∀ s : State, ∃ t : State,
    exec .cinit s = .next t ∧ commandWrite 0x2000 s = .next t ∧
    t = { s with
          crc := 0xFFFF, hold0 := 0x00, hold1 := 0x00, vcnt := 0, mode := .idle, vres := .none,
          errIll := false, errNoTable := false, errMode := false } ∧
    exec .cinit t = .next t ∧
    t.status = (if s.tvalid = true then 0x0001 else 0x0000) ∧
    (∀ w : Word, (fieldsOf w).op = 2 → w ≠ 0x2000 →
      commandWrite w s = .next { s with errIll := true })) ∧
  ∀ (i : Instr) (s t : State), i ≠ .cinit → exec i s = .next t →
    (s.errIll = true → t.errIll = true) ∧ (s.errNoTable = true → t.errNoTable = true) ∧
    (s.errMode = true → t.errMode = true)

/-- R122: CBYTE folds D into CRC, sets MODE to COMPUTE and VRES to NONE, and writes nothing else; it is
refused with ERR_NOTABLE, then with ERR_MODE; a word with RSV not 0 is illegal; and the rule's corner
cases and example over the generated table. -/
def Obligations.CbyteFoldsByte : Prop :=
  ∀ (s : State) (d : Byte),
    commandWrite (0x3000 ||| d.setWidth 16) s = exec (.cbyte d) s ∧
    (s.tvalid = false → exec (.cbyte d) s = .next { s with errNoTable := true }) ∧
    (s.tvalid = true → s.mode = .verify → exec (.cbyte d) s = .next { s with errMode := true }) ∧
    (s.tvalid = true → s.mode ≠ .verify →
      exec (.cbyte d) s = .next
        { s with
          crc := s.tableEntry (s.crc.setWidth 8 ^^^ d) ^^^ (s.crc >>> 8)
          mode := .compute, vres := .none }) ∧
    (∀ w : Word, (fieldsOf w).op = 3 → (fieldsOf w).rsv ≠ 0 →
      commandWrite w s = .next { s with errIll := true }) ∧
    (TableBuilt s →
      s.foldStep 0xFFFF 0x00 = 0x0F87 ∧ (∀ c : Word, s.foldStep c (c.setWidth 8) = c >>> 8) ∧
      (s.tvalid = true →
        ∃ t : State, execAll [.cinit, .cbyte 0x00] s = .next t ∧ t.crc = 0x0F87))

/-- R141: VBYTE folds HOLD0 into CRC once two bytes are held, shifts the delay line, counts, sets MODE to
VERIFY and VRES to NONE, and writes nothing else; it is refused with ERR_NOTABLE, then with ERR_MODE,
and then a VEND that is not itself refused reports FAIL; a word with RSV not 0 is illegal; the first
two VBYTEs of a stream leave CRC alone; and the rule's example. -/
def Obligations.VbyteShiftsDelayLine : Prop :=
  ∀ (s : State) (d : Byte),
    commandWrite (0x4000 ||| d.setWidth 16) s = exec (.vbyte d) s ∧
    (s.tvalid = false → exec (.vbyte d) s = .next { s with errNoTable := true }) ∧
    (s.tvalid = true → s.mode = .compute → exec (.vbyte d) s = .next { s with errMode := true }) ∧
    (s.tvalid = true → s.mode ≠ .compute →
      exec (.vbyte d) s = .next
        { s with
          crc :=
            if s.vcnt = 2 then s.tableEntry (s.crc.setWidth 8 ^^^ s.hold0) ^^^ (s.crc >>> 8)
            else s.crc
          hold0 := s.hold1, hold1 := d
          vcnt := if s.vcnt = 0 then 1 else 2
          mode := .verify, vres := .none }) ∧
    (∀ t : State, (s.tvalid = false ∨ s.mode = .compute) → exec (.vbyte d) s = .next t →
      t.mode ≠ .compute → exec .vend t = .next { t with vres := .fail }) ∧
    (∀ w : Word, (fieldsOf w).op = 4 → (fieldsOf w).rsv ≠ 0 →
      commandWrite w s = .next { s with errIll := true }) ∧
    (s.tvalid = true → ∀ a b : Byte,
      (∃ t : State, execAll [.cinit, .vbyte a] s = .next t ∧ t.crc = 0xFFFF) ∧
      (∃ t : State, execAll [.cinit, .vbyte a, .vbyte b] s = .next t ∧ t.crc = 0xFFFF)) ∧
    (s.tvalid = true → TableBuilt s →
      ∃ t : State, execAll [.cinit, .vbyte 0x12, .vbyte 0x34, .vbyte 0x56] s = .next t ∧
        t.hold0 = 0x34 ∧ t.hold1 = 0x56 ∧ t.vcnt = 2 ∧ t.crc = s.foldStep 0xFFFF 0x12 ∧
        t.crc = crc16 [0x12] ∧ t.crc = 0x3C14)

/-- R142: VEND writes the verdict to VRES and nothing else: FAIL under any error bit, else SHORT below
two bytes, else PASS exactly when CRC's bytes are the held ones, low byte first; it is refused with
ERR_MODE in COMPUTE; the other words with OP = 5 are illegal; a second VEND keeps VRES; and the rule's
example frames. -/
def Obligations.VendReportsVerdict : Prop :=
  ∀ s : State,
    commandWrite 0x5000 s = exec .vend s ∧
    (s.mode = .compute → exec .vend s = .next { s with errMode := true }) ∧
    (s.mode ≠ .compute →
      ((s.errIll = true ∨ s.errNoTable = true ∨ s.errMode = true) →
        exec .vend s = .next { s with vres := .fail }) ∧
      (s.errIll = false → s.errNoTable = false → s.errMode = false →
        (s.vcnt ≠ 2 → exec .vend s = .next { s with vres := .short }) ∧
        (s.vcnt = 2 → s.crc = s.hold1 ++ s.hold0 →
          exec .vend s = .next { s with vres := .pass }) ∧
        (s.vcnt = 2 → s.crc ≠ s.hold1 ++ s.hold0 →
          exec .vend s = .next { s with vres := .fail }))) ∧
    (∀ t u : State, exec .vend s = .next t → exec .vend t = .next u → u.vres = t.vres) ∧
    (∀ w : Word, (fieldsOf w).op = 5 → w ≠ 0x5000 →
      commandWrite w s = .next { s with errIll := true }) ∧
    (s.tvalid = true → TableBuilt s →
      (∃ t : State,
        execAll (verifyCommands
          [0x00, 0x00, 0x00, 0x05, 0x01, 0x00, 0xDD, 0x00, 0x00, 0xAB, 0x21]) s = .next t ∧
        t.vres = .pass) ∧
      ∀ a b : Byte, ∃ t : State, execAll (verifyCommands [a, b]) s = .next t ∧
        (t.vres = .pass ↔ a = 0xFF ∧ b = 0xFF))

/-! ### Refusals -/

/-- R202: refusing sets the named error bit, ends the command, and changes no other state. -/
def Obligations.RefusalSetsOneBit : Prop :=
  ∀ s : State,
    refuse .illegal s = .next { s with errIll := true } ∧
    refuse .noTable s = .next { s with errNoTable := true } ∧
    refuse .mode s = .next { s with errMode := true }

/-- R203: of the causes that apply to a word written to CMD the first in the order ERR_ILL, ERR_NOTABLE,
ERR_MODE is raised and no other; where none applies no error bit is set; and where the invariant holds
ERR_NOTABLE and ERR_MODE never both apply, since MODE other than IDLE implies TVALID = 1. -/
def Obligations.RefusalCausesInOrder : Prop :=
  ∀ (w : Word) (s : State),
    (decode w = none → commandWrite w s = .next { s with errIll := true }) ∧
    (∀ i : Instr, decode w = some i →
      (readsTable i = true → s.tvalid = false →
        commandWrite w s = .next { s with errNoTable := true }) ∧
      (¬ (readsTable i = true ∧ s.tvalid = false) → wrongStream i s.mode = true →
        commandWrite w s = .next { s with errMode := true }) ∧
      (¬ (readsTable i = true ∧ s.tvalid = false) → wrongStream i s.mode = false →
        ∃ t : State, commandWrite w s = .next t ∧ (t.errIll = true → s.errIll = true) ∧
          (t.errNoTable = true → s.errNoTable = true) ∧ (t.errMode = true → s.errMode = true)) ∧
      (Invariant s → ¬ ((readsTable i = true ∧ s.tvalid = false) ∧ wrongStream i s.mode = true))) ∧
    (Invariant s → s.mode ≠ .idle → s.tvalid = true)

/-- R206: an error bit that is set stays set over every step but a reset and a CINIT written to CMD;
those two clear all three. -/
def Obligations.ErrorBitsClearedOnlyByCinitAndReset : Prop :=
  ∀ (s t : State), step s = .next t →
    (s.pending.head? ≠ some .reset →
      (∀ rd : Bool, s.pending.head? ≠
        some (.request { addr := 0, wr := true, rd := rd, wdata := 0x2000 })) →
      (s.errIll = true → t.errIll = true) ∧ (s.errNoTable = true → t.errNoTable = true) ∧
      (s.errMode = true → t.errMode = true)) ∧
    ((s.pending.head? = some .reset ∨
      ∃ rd : Bool, s.pending.head? =
        some (.request { addr := 0, wr := true, rd := rd, wdata := 0x2000 })) →
      t.errIll = false ∧ t.errNoTable = false ∧ t.errMode = false)

/-- 60_exceptions.md section 1: a set error bit does not stop the block. A command other than VEND does
to the rest of the state what it would do without it, CRC included; a VEND outside COMPUTE reports
FAIL. -/
def Obligations.ErrorBitsChangeOnlyTheVerdict : Prop :=
  (∀ (i : Instr) (s t : State) (a b c : Bool), i ≠ .vend → exec i s = .next t →
    ∃ u : State, exec i { s with errIll := a, errNoTable := b, errMode := c } = .next u ∧
      t = { u with errIll := t.errIll, errNoTable := t.errNoTable, errMode := t.errMode }) ∧
  (∀ s : State, s.mode ≠ .compute → (s.errIll || s.errNoTable || s.errMode) = true →
    exec .vend s = .next { s with vres := .fail })

/-! ### TABLE and the registers -/

/-- 10_state.md section 6 and 93_implementation_defined.md row 1: TABLE's contents from before the first
TBUILD are never observed. Two states that differ at most in them stay so over every step, whatever the
host presents, and the host reads the same values from both. -/
def Obligations.TableContentsBeforeBuildUnobservable : Prop :=
  ∀ s s' t : State, AgreeButDraw s s' → step s = .next t →
    ∃ t' : State, step s' = .next t' ∧ AgreeButDraw t t'

/-- 10_state.md sections 2 and 3: each register changes only under the commands that its rule names; no
command clears TVALID; and no command touches what the host has pending or the port's response. -/
def Obligations.CommandsWriteOnlyTheirRegisters : Prop :=
  ∀ (i : Instr) (s t : State), exec i s = .next t →
    (t.crc ≠ s.crc → i = .cinit ∨ (∃ d, i = .cbyte d) ∨ (∃ d, i = .vbyte d ∧ s.vcnt = 2)) ∧
    (t.hold0 ≠ s.hold0 ∨ t.hold1 ≠ s.hold1 ∨ t.vcnt ≠ s.vcnt → i = .cinit ∨ ∃ d, i = .vbyte d) ∧
    (t.mode ≠ s.mode → i = .cinit ∨ (∃ d, i = .cbyte d) ∨ ∃ d, i = .vbyte d) ∧
    (t.vres ≠ s.vres → i = .cinit ∨ i = .vend ∨ (∃ d, i = .cbyte d) ∨ ∃ d, i = .vbyte d) ∧
    (t.result ≠ s.result → ∃ d, i = .tread d) ∧
    (t.tvalid ≠ s.tvalid → i = .tbuild ∧ t.tvalid = true) ∧
    (t.table ≠ s.table → i = .tbuild) ∧
    (t.errNoTable = true → s.errNoTable = false →
      s.tvalid = false ∧ ((∃ d, i = .cbyte d) ∨ (∃ d, i = .vbyte d) ∨ ∃ d, i = .tread d)) ∧
    (t.errMode = true → s.errMode = false →
      ((∃ d, i = .cbyte d) ∧ s.mode = .verify) ∨
      (((∃ d, i = .vbyte d) ∨ i = .vend) ∧ s.mode = .compute)) ∧
    (t.errIll = true → s.errIll = true) ∧
    t.pending = s.pending ∧ t.response = s.response ∧ t.tableDraw = s.tableDraw

/-! ### The generation function and the fold -/

/-- R102: gen is linear over exclusive-or, gen(0) = 0, and its eight values at the powers of two. -/
def Obligations.GenIsLinear : Prop :=
  (∀ a b : Byte, gen (a ^^^ b) = gen a ^^^ gen b) ∧ gen 0 = 0 ∧
  gen 0x01 = 0x1189 ∧ gen 0x02 = 0x2312 ∧ gen 0x04 = 0x4624 ∧ gen 0x08 = 0x8C48 ∧
  gen 0x10 = 0x1081 ∧ gen 0x20 = 0x2102 ∧ gen 0x40 = 0x4204 ∧ gen 0x80 = 0x8408

/-- 41_table_generator.md section 1: the high bytes of the 256 entries are pairwise distinct, so gen is
injective; and the values of entries 0, 0x80 and 0xFF. -/
def Obligations.GenHighBytesDistinct : Prop :=
  (∀ a b : Byte, (gen a).extractLsb' 8 8 = (gen b).extractLsb' 8 8 → a = b) ∧
  (∀ a b : Byte, gen a = gen b → a = b) ∧
  gen 0 = 0x0000 ∧ gen 0x80 = 0x8408 ∧ gen 0xFF = 0x0F78

/-- R127: the table-driven step equals the bitwise reflected step for every c and b, both over gen and
over a block whose TABLE holds the generated table. -/
def Obligations.StepEqualsBitwiseStep : Prop :=
  ∀ (c : Word) (b : Byte),
    crcStep c b = bitStep c b ∧ ∀ s : State, TableBuilt s → s.foldStep c b = bitStep c b

/-- R126: the empty sequence's checksum is 0xFFFF, and the host reads it from CRC after a CINIT. -/
def Obligations.EmptyChecksumIsInit : Prop :=
  crc16 [] = 0xFFFF ∧
  ∀ s : State, ∃ t : State, execAll (crc16Commands []) s = .next t ∧ t.hostRead 1 = 0xFFFF

/-- R125: after CINIT and one CBYTE per byte, over the built table, CRC is the fold of step over the
bytes from 0xFFFF, none of the commands is refused, and only the stream's state has changed; and the
checksum depends on byte order. -/
def Obligations.ChecksumStreamComputesCrc16 : Prop :=
  (∀ (bytes : List Byte) (s : State), s.tvalid = true → TableBuilt s →
    execAll (crc16Commands bytes) s = .next
      { s with
        crc := bytes.foldl crcStep 0xFFFF, hold0 := 0, hold1 := 0, vcnt := 0
        mode := if bytes = [] then .idle else .compute
        vres := .none, errIll := false, errNoTable := false, errMode := false } ∧
    crc16 bytes = bytes.foldl crcStep 0xFFFF) ∧
  crc16 [0x12, 0x34] ≠ crc16 [0x34, 0x12]

/-- R128: appending the CRC's low byte and then its high byte gives a sequence whose CRC is 0. -/
def Obligations.ResidueIsZero : Prop :=
  ∀ bytes : List Byte,
    crc16 (bytes ++ [(crc16 bytes).extractLsb' 0 8, (crc16 bytes).extractLsb' 8 8]) = 0x0000

/-! ### The verifier -/

/-- R143: the state of a verification stream after k accepted VBYTEs, from the state CINIT or reset
leaves, over the built table. VEND, TBUILD, TREAD and NOP may stand anywhere among them. -/
def Obligations.VerifyStreamState : Prop :=
  ∀ (commands : List Instr) (s : State), (∀ i ∈ commands, keepsVerifyStream i = true) →
    s.tvalid = true → TableBuilt s →
    s.crc = 0xFFFF → s.hold0 = 0x00 → s.hold1 = 0x00 → s.vcnt = 0 → s.mode = .idle →
    ∃ t : State, execAll commands s = .next t ∧
      ∀ frame : List Byte, frame = commands.filterMap vbyteOf →
        (frame.length = 0 →
          t.crc = 0xFFFF ∧ t.hold0 = 0x00 ∧ t.hold1 = 0x00 ∧ t.vcnt = 0 ∧ t.mode = .idle) ∧
        (frame.length = 1 →
          t.crc = 0xFFFF ∧ t.hold0 = 0x00 ∧ [t.hold1] = frame ∧ t.vcnt = 1 ∧ t.mode = .verify) ∧
        (2 ≤ frame.length →
          t.crc = crc16 (frame.take (frame.length - 2)) ∧
          [t.hold0, t.hold1] = frame.drop (frame.length - 2) ∧ t.vcnt = 2 ∧ t.mode = .verify)

/-- R144: the verdict of VERIFY depends only on the frame: SHORT below two bytes, PASS if the last two
bytes are the CRC of the rest, low byte first, and FAIL otherwise. -/
def Obligations.VerifyVerdictOfFrame : Prop :=
  ∀ (frame : List Byte) (s : State), s.tvalid = true → TableBuilt s →
    ∃ t : State, execAll (verifyCommands frame) s = .next t ∧
      (frame.length < 2 → t.vres = .short) ∧
      (2 ≤ frame.length → verifyFrame frame = true → t.vres = .pass) ∧
      (2 ≤ frame.length → verifyFrame frame = false → t.vres = .fail)

/-- R145: a byte sequence with its CRC appended, low byte first, passes. -/
def Obligations.RoundTripPasses : Prop :=
  ∀ (bytes : List Byte) (s : State), s.tvalid = true → TableBuilt s →
    ∃ t : State,
      execAll (verifyCommands
        (bytes ++ [(crc16 bytes).extractLsb' 0 8, (crc16 bytes).extractLsb' 8 8])) s = .next t ∧
      t.vres = .pass

/-- 43_verifier.md section 4 (tamper detection): a passing frame with exactly one bit flipped fails. -/
def Obligations.SingleBitTamperFails : Prop :=
  ∀ (frame : List Byte) (j k : Nat) (s : State), s.tvalid = true → TableBuilt s →
    2 ≤ frame.length → verifyFrame frame = true → j < frame.length → k < 8 →
    ∃ t : State,
      execAll (verifyCommands (frame.set j (frame.getD j 0 ^^^ (1#8 <<< k)))) s = .next t ∧
      t.vres = .fail

/-- R147: a frame of exactly two bytes passes exactly when it is [0xFF, 0xFF], and fails otherwise. -/
def Obligations.TwoByteFrames : Prop :=
  ∀ (a b : Byte) (s : State), s.tvalid = true → TableBuilt s →
    ∃ t : State, execAll (verifyCommands [a, b]) s = .next t ∧
      t.vres = (if a = 0xFF ∧ b = 0xFF then .pass else .fail)

/-- R148: a frame of two or more bytes verifies iff its own CRC is 0; and for every CRC value the map
from the last two bytes to the final CRC is a bijection. -/
def Obligations.VerdictFromResidue : Prop :=
  (∀ frame : List Byte, 2 ≤ frame.length → (verifyFrame frame = true ↔ crc16 frame = 0x0000)) ∧
  ∀ c : Word, Function.Bijective fun p : Byte × Byte => crcStep (crcStep c p.1) p.2

/-- 43_verifier.md section 4 and 20_memory.md sections 2 and 3: a host that writes the commands of
VERIFY for any frame and then reads STATUS sees the frame's verdict in bits 4:3. -/
def Obligations.HostReadsVerdictOfFrame : Prop :=
  ∀ (frame : List Byte) (rest : List HostEvent) (s : State), s.tvalid = true → TableBuilt s →
    s.pending = cmdRequests (verifyCommands frame) ++ readRequest 3 :: rest →
    ∃ (t : State) (v : Word),
      run (frame.length + 3) s = .next t ∧ t.pending = rest ∧
      t.response = .data v ∧
      v.extractLsb' 3 2
        = (if frame.length < 2 then 3 else if verifyFrame frame = true then 1 else 2)

/-! ### Assembler -/

/-- 30_encoding.md section 4: the text of any command sequence, one command per line with its operand in
hexadecimal, assembles to the commands' words in order. How the text is spaced is the model's choice
within that section's syntax, log entry 15. -/
def Obligations.AssembleShownProgram : Prop :=
  ∀ commands : List Instr, assemble (showProgram commands) = some (commands.map encode)
end

