-- ==== Sys2Proof/Laws/State.lean ====
section
/-! SUPPORT. One lemma per field per state update (all by rfl, but for `setError`, which is by cases on
the bit), so that no proof unfolds a record update. -/

namespace Sys2Proof.Machine

/-! ### buildTable -/

@[simp] theorem State.buildTable_table (s : State) : s.buildTable.table = s.table.build := rfl
@[simp] theorem State.buildTable_tvalid (s : State) : s.buildTable.tvalid = true := rfl
@[simp] theorem State.buildTable_crc (s : State) : s.buildTable.crc = s.crc := rfl
@[simp] theorem State.buildTable_hold0 (s : State) : s.buildTable.hold0 = s.hold0 := rfl
@[simp] theorem State.buildTable_hold1 (s : State) : s.buildTable.hold1 = s.hold1 := rfl
@[simp] theorem State.buildTable_vcnt (s : State) : s.buildTable.vcnt = s.vcnt := rfl
@[simp] theorem State.buildTable_mode (s : State) : s.buildTable.mode = s.mode := rfl
@[simp] theorem State.buildTable_vres (s : State) : s.buildTable.vres = s.vres := rfl
@[simp] theorem State.buildTable_result (s : State) : s.buildTable.result = s.result := rfl
@[simp] theorem State.buildTable_errIll (s : State) : s.buildTable.errIll = s.errIll := rfl
@[simp] theorem State.buildTable_errNoTable (s : State) :
    s.buildTable.errNoTable = s.errNoTable := rfl
@[simp] theorem State.buildTable_errMode (s : State) : s.buildTable.errMode = s.errMode := rfl
@[simp] theorem State.buildTable_pending (s : State) : s.buildTable.pending = s.pending := rfl
@[simp] theorem State.buildTable_response (s : State) : s.buildTable.response = s.response := rfl
@[simp] theorem State.buildTable_tableDraw (s : State) : s.buildTable.tableDraw = s.tableDraw := rfl

/-! ### loadResult -/

@[simp] theorem State.loadResult_table (v : Word) (s : State) :
    (s.loadResult v).table = s.table := rfl
@[simp] theorem State.loadResult_tvalid (v : Word) (s : State) :
    (s.loadResult v).tvalid = s.tvalid := rfl
@[simp] theorem State.loadResult_crc (v : Word) (s : State) : (s.loadResult v).crc = s.crc := rfl
@[simp] theorem State.loadResult_hold0 (v : Word) (s : State) :
    (s.loadResult v).hold0 = s.hold0 := rfl
@[simp] theorem State.loadResult_hold1 (v : Word) (s : State) :
    (s.loadResult v).hold1 = s.hold1 := rfl
@[simp] theorem State.loadResult_vcnt (v : Word) (s : State) : (s.loadResult v).vcnt = s.vcnt := rfl
@[simp] theorem State.loadResult_mode (v : Word) (s : State) : (s.loadResult v).mode = s.mode := rfl
@[simp] theorem State.loadResult_vres (v : Word) (s : State) : (s.loadResult v).vres = s.vres := rfl
@[simp] theorem State.loadResult_result (v : Word) (s : State) : (s.loadResult v).result = v := rfl
@[simp] theorem State.loadResult_errIll (v : Word) (s : State) :
    (s.loadResult v).errIll = s.errIll := rfl
@[simp] theorem State.loadResult_errNoTable (v : Word) (s : State) :
    (s.loadResult v).errNoTable = s.errNoTable := rfl
@[simp] theorem State.loadResult_errMode (v : Word) (s : State) :
    (s.loadResult v).errMode = s.errMode := rfl
@[simp] theorem State.loadResult_pending (v : Word) (s : State) :
    (s.loadResult v).pending = s.pending := rfl
@[simp] theorem State.loadResult_response (v : Word) (s : State) :
    (s.loadResult v).response = s.response := rfl
@[simp] theorem State.loadResult_tableDraw (v : Word) (s : State) :
    (s.loadResult v).tableDraw = s.tableDraw := rfl
@[simp] theorem State.loadResult_tableEntry (v : Word) (s : State) (i : Byte) :
    (s.loadResult v).tableEntry i = s.tableEntry i := rfl

/-! ### startStream -/

@[simp] theorem State.startStream_table (s : State) : s.startStream.table = s.table := rfl
@[simp] theorem State.startStream_tvalid (s : State) : s.startStream.tvalid = s.tvalid := rfl
@[simp] theorem State.startStream_crc (s : State) : s.startStream.crc = Config.init := rfl
@[simp] theorem State.startStream_hold0 (s : State) : s.startStream.hold0 = 0 := rfl
@[simp] theorem State.startStream_hold1 (s : State) : s.startStream.hold1 = 0 := rfl
@[simp] theorem State.startStream_vcnt (s : State) : s.startStream.vcnt = 0 := rfl
@[simp] theorem State.startStream_mode (s : State) : s.startStream.mode = .idle := rfl
@[simp] theorem State.startStream_vres (s : State) : s.startStream.vres = .none := rfl
@[simp] theorem State.startStream_result (s : State) : s.startStream.result = s.result := rfl
@[simp] theorem State.startStream_errIll (s : State) : s.startStream.errIll = false := rfl
@[simp] theorem State.startStream_errNoTable (s : State) : s.startStream.errNoTable = false := rfl
@[simp] theorem State.startStream_errMode (s : State) : s.startStream.errMode = false := rfl
@[simp] theorem State.startStream_pending (s : State) : s.startStream.pending = s.pending := rfl
@[simp] theorem State.startStream_response (s : State) : s.startStream.response = s.response := rfl
@[simp] theorem State.startStream_tableDraw (s : State) :
    s.startStream.tableDraw = s.tableDraw := rfl
@[simp] theorem State.startStream_tableEntry (s : State) (i : Byte) :
    s.startStream.tableEntry i = s.tableEntry i := rfl

/-! ### foldByte -/

@[simp] theorem State.foldByte_table (b : Byte) (s : State) : (s.foldByte b).table = s.table := rfl
@[simp] theorem State.foldByte_tvalid (b : Byte) (s : State) :
    (s.foldByte b).tvalid = s.tvalid := rfl
@[simp] theorem State.foldByte_crc (b : Byte) (s : State) :
    (s.foldByte b).crc = s.foldStep s.crc b := rfl
@[simp] theorem State.foldByte_hold0 (b : Byte) (s : State) : (s.foldByte b).hold0 = s.hold0 := rfl
@[simp] theorem State.foldByte_hold1 (b : Byte) (s : State) : (s.foldByte b).hold1 = s.hold1 := rfl
@[simp] theorem State.foldByte_vcnt (b : Byte) (s : State) : (s.foldByte b).vcnt = s.vcnt := rfl
@[simp] theorem State.foldByte_mode (b : Byte) (s : State) : (s.foldByte b).mode = .compute := rfl
@[simp] theorem State.foldByte_vres (b : Byte) (s : State) : (s.foldByte b).vres = .none := rfl
@[simp] theorem State.foldByte_result (b : Byte) (s : State) :
    (s.foldByte b).result = s.result := rfl
@[simp] theorem State.foldByte_errIll (b : Byte) (s : State) :
    (s.foldByte b).errIll = s.errIll := rfl
@[simp] theorem State.foldByte_errNoTable (b : Byte) (s : State) :
    (s.foldByte b).errNoTable = s.errNoTable := rfl
@[simp] theorem State.foldByte_errMode (b : Byte) (s : State) :
    (s.foldByte b).errMode = s.errMode := rfl
@[simp] theorem State.foldByte_pending (b : Byte) (s : State) :
    (s.foldByte b).pending = s.pending := rfl
@[simp] theorem State.foldByte_response (b : Byte) (s : State) :
    (s.foldByte b).response = s.response := rfl
@[simp] theorem State.foldByte_tableDraw (b : Byte) (s : State) :
    (s.foldByte b).tableDraw = s.tableDraw := rfl
@[simp] theorem State.foldByte_tableEntry (b : Byte) (s : State) (i : Byte) :
    (s.foldByte b).tableEntry i = s.tableEntry i := rfl

/-! ### shiftIn -/

@[simp] theorem State.shiftIn_table (b : Byte) (s : State) : (s.shiftIn b).table = s.table := rfl
@[simp] theorem State.shiftIn_tvalid (b : Byte) (s : State) : (s.shiftIn b).tvalid = s.tvalid := rfl
@[simp] theorem State.shiftIn_crc (b : Byte) (s : State) :
    (s.shiftIn b).crc = if s.vcnt.val = Config.vcntMax then s.foldStep s.crc s.hold0 else s.crc := rfl
@[simp] theorem State.shiftIn_hold0 (b : Byte) (s : State) : (s.shiftIn b).hold0 = s.hold1 := rfl
@[simp] theorem State.shiftIn_hold1 (b : Byte) (s : State) : (s.shiftIn b).hold1 = b := rfl
@[simp] theorem State.shiftIn_vcnt (b : Byte) (s : State) :
    (s.shiftIn b).vcnt = vcntNext s.vcnt := rfl
@[simp] theorem State.shiftIn_mode (b : Byte) (s : State) : (s.shiftIn b).mode = .verify := rfl
@[simp] theorem State.shiftIn_vres (b : Byte) (s : State) : (s.shiftIn b).vres = .none := rfl
@[simp] theorem State.shiftIn_result (b : Byte) (s : State) : (s.shiftIn b).result = s.result := rfl
@[simp] theorem State.shiftIn_errIll (b : Byte) (s : State) : (s.shiftIn b).errIll = s.errIll := rfl
@[simp] theorem State.shiftIn_errNoTable (b : Byte) (s : State) :
    (s.shiftIn b).errNoTable = s.errNoTable := rfl
@[simp] theorem State.shiftIn_errMode (b : Byte) (s : State) :
    (s.shiftIn b).errMode = s.errMode := rfl
@[simp] theorem State.shiftIn_pending (b : Byte) (s : State) :
    (s.shiftIn b).pending = s.pending := rfl
@[simp] theorem State.shiftIn_response (b : Byte) (s : State) :
    (s.shiftIn b).response = s.response := rfl
@[simp] theorem State.shiftIn_tableDraw (b : Byte) (s : State) :
    (s.shiftIn b).tableDraw = s.tableDraw := rfl
@[simp] theorem State.shiftIn_tableEntry (b : Byte) (s : State) (i : Byte) :
    (s.shiftIn b).tableEntry i = s.tableEntry i := rfl

/-! ### setVerdict -/

@[simp] theorem State.setVerdict_table (v : Verdict) (s : State) :
    (s.setVerdict v).table = s.table := rfl
@[simp] theorem State.setVerdict_tvalid (v : Verdict) (s : State) :
    (s.setVerdict v).tvalid = s.tvalid := rfl
@[simp] theorem State.setVerdict_crc (v : Verdict) (s : State) : (s.setVerdict v).crc = s.crc := rfl
@[simp] theorem State.setVerdict_hold0 (v : Verdict) (s : State) :
    (s.setVerdict v).hold0 = s.hold0 := rfl
@[simp] theorem State.setVerdict_hold1 (v : Verdict) (s : State) :
    (s.setVerdict v).hold1 = s.hold1 := rfl
@[simp] theorem State.setVerdict_vcnt (v : Verdict) (s : State) :
    (s.setVerdict v).vcnt = s.vcnt := rfl
@[simp] theorem State.setVerdict_mode (v : Verdict) (s : State) :
    (s.setVerdict v).mode = s.mode := rfl
@[simp] theorem State.setVerdict_vres (v : Verdict) (s : State) : (s.setVerdict v).vres = v := rfl
@[simp] theorem State.setVerdict_result (v : Verdict) (s : State) :
    (s.setVerdict v).result = s.result := rfl
@[simp] theorem State.setVerdict_errIll (v : Verdict) (s : State) :
    (s.setVerdict v).errIll = s.errIll := rfl
@[simp] theorem State.setVerdict_errNoTable (v : Verdict) (s : State) :
    (s.setVerdict v).errNoTable = s.errNoTable := rfl
@[simp] theorem State.setVerdict_errMode (v : Verdict) (s : State) :
    (s.setVerdict v).errMode = s.errMode := rfl
@[simp] theorem State.setVerdict_pending (v : Verdict) (s : State) :
    (s.setVerdict v).pending = s.pending := rfl
@[simp] theorem State.setVerdict_response (v : Verdict) (s : State) :
    (s.setVerdict v).response = s.response := rfl
@[simp] theorem State.setVerdict_tableDraw (v : Verdict) (s : State) :
    (s.setVerdict v).tableDraw = s.tableDraw := rfl
@[simp] theorem State.setVerdict_tableEntry (v : Verdict) (s : State) (i : Byte) :
    (s.setVerdict v).tableEntry i = s.tableEntry i := rfl

/-! ### respond -/

@[simp] theorem State.respond_table (r : Response) (s : State) :
    (s.respond r).table = s.table := rfl
@[simp] theorem State.respond_tvalid (r : Response) (s : State) :
    (s.respond r).tvalid = s.tvalid := rfl
@[simp] theorem State.respond_crc (r : Response) (s : State) : (s.respond r).crc = s.crc := rfl
@[simp] theorem State.respond_hold0 (r : Response) (s : State) :
    (s.respond r).hold0 = s.hold0 := rfl
@[simp] theorem State.respond_hold1 (r : Response) (s : State) :
    (s.respond r).hold1 = s.hold1 := rfl
@[simp] theorem State.respond_vcnt (r : Response) (s : State) : (s.respond r).vcnt = s.vcnt := rfl
@[simp] theorem State.respond_mode (r : Response) (s : State) : (s.respond r).mode = s.mode := rfl
@[simp] theorem State.respond_vres (r : Response) (s : State) : (s.respond r).vres = s.vres := rfl
@[simp] theorem State.respond_result (r : Response) (s : State) :
    (s.respond r).result = s.result := rfl
@[simp] theorem State.respond_errIll (r : Response) (s : State) :
    (s.respond r).errIll = s.errIll := rfl
@[simp] theorem State.respond_errNoTable (r : Response) (s : State) :
    (s.respond r).errNoTable = s.errNoTable := rfl
@[simp] theorem State.respond_errMode (r : Response) (s : State) :
    (s.respond r).errMode = s.errMode := rfl
@[simp] theorem State.respond_pending (r : Response) (s : State) :
    (s.respond r).pending = s.pending := rfl
@[simp] theorem State.respond_response (r : Response) (s : State) :
    (s.respond r).response = r := rfl
@[simp] theorem State.respond_tableDraw (r : Response) (s : State) :
    (s.respond r).tableDraw = s.tableDraw := rfl
@[simp] theorem State.respond_tableEntry (r : Response) (s : State) (i : Byte) :
    (s.respond r).tableEntry i = s.tableEntry i := rfl

/-! ### withPending -/

@[simp] theorem State.withPending_table (rest : List HostEvent) (s : State) :
    (s.withPending rest).table = s.table := rfl
@[simp] theorem State.withPending_tvalid (rest : List HostEvent) (s : State) :
    (s.withPending rest).tvalid = s.tvalid := rfl
@[simp] theorem State.withPending_crc (rest : List HostEvent) (s : State) :
    (s.withPending rest).crc = s.crc := rfl
@[simp] theorem State.withPending_hold0 (rest : List HostEvent) (s : State) :
    (s.withPending rest).hold0 = s.hold0 := rfl
@[simp] theorem State.withPending_hold1 (rest : List HostEvent) (s : State) :
    (s.withPending rest).hold1 = s.hold1 := rfl
@[simp] theorem State.withPending_vcnt (rest : List HostEvent) (s : State) :
    (s.withPending rest).vcnt = s.vcnt := rfl
@[simp] theorem State.withPending_mode (rest : List HostEvent) (s : State) :
    (s.withPending rest).mode = s.mode := rfl
@[simp] theorem State.withPending_vres (rest : List HostEvent) (s : State) :
    (s.withPending rest).vres = s.vres := rfl
@[simp] theorem State.withPending_result (rest : List HostEvent) (s : State) :
    (s.withPending rest).result = s.result := rfl
@[simp] theorem State.withPending_errIll (rest : List HostEvent) (s : State) :
    (s.withPending rest).errIll = s.errIll := rfl
@[simp] theorem State.withPending_errNoTable (rest : List HostEvent) (s : State) :
    (s.withPending rest).errNoTable = s.errNoTable := rfl
@[simp] theorem State.withPending_errMode (rest : List HostEvent) (s : State) :
    (s.withPending rest).errMode = s.errMode := rfl
@[simp] theorem State.withPending_pending (rest : List HostEvent) (s : State) :
    (s.withPending rest).pending = rest := rfl
@[simp] theorem State.withPending_response (rest : List HostEvent) (s : State) :
    (s.withPending rest).response = s.response := rfl
@[simp] theorem State.withPending_tableDraw (rest : List HostEvent) (s : State) :
    (s.withPending rest).tableDraw = s.tableDraw := rfl
@[simp] theorem State.withPending_tableEntry (rest : List HostEvent) (s : State) (i : Byte) :
    (s.withPending rest).tableEntry i = s.tableEntry i := rfl

/-! ### resetBlock -/

@[simp] theorem State.resetBlock_table (s : State) : s.resetBlock.table = [] := rfl
@[simp] theorem State.resetBlock_tvalid (s : State) : s.resetBlock.tvalid = false := rfl
@[simp] theorem State.resetBlock_crc (s : State) : s.resetBlock.crc = Config.init := rfl
@[simp] theorem State.resetBlock_hold0 (s : State) : s.resetBlock.hold0 = 0 := rfl
@[simp] theorem State.resetBlock_hold1 (s : State) : s.resetBlock.hold1 = 0 := rfl
@[simp] theorem State.resetBlock_vcnt (s : State) : s.resetBlock.vcnt = 0 := rfl
@[simp] theorem State.resetBlock_mode (s : State) : s.resetBlock.mode = .idle := rfl
@[simp] theorem State.resetBlock_vres (s : State) : s.resetBlock.vres = .none := rfl
@[simp] theorem State.resetBlock_result (s : State) : s.resetBlock.result = 0 := rfl
@[simp] theorem State.resetBlock_errIll (s : State) : s.resetBlock.errIll = false := rfl
@[simp] theorem State.resetBlock_errNoTable (s : State) : s.resetBlock.errNoTable = false := rfl
@[simp] theorem State.resetBlock_errMode (s : State) : s.resetBlock.errMode = false := rfl
@[simp] theorem State.resetBlock_pending (s : State) : s.resetBlock.pending = s.pending := rfl
@[simp] theorem State.resetBlock_response (s : State) : s.resetBlock.response = .idle := rfl
@[simp] theorem State.resetBlock_tableDraw (s : State) :
    s.resetBlock.tableDraw = s.tableDraw + 1 := rfl

/-! ### setError -/

@[simp] theorem State.setError_table (e : ErrorBit) (s : State) :
    (s.setError e).table = s.table := by cases e <;> rfl
@[simp] theorem State.setError_tvalid (e : ErrorBit) (s : State) :
    (s.setError e).tvalid = s.tvalid := by cases e <;> rfl
@[simp] theorem State.setError_crc (e : ErrorBit) (s : State) :
    (s.setError e).crc = s.crc := by cases e <;> rfl
@[simp] theorem State.setError_hold0 (e : ErrorBit) (s : State) :
    (s.setError e).hold0 = s.hold0 := by cases e <;> rfl
@[simp] theorem State.setError_hold1 (e : ErrorBit) (s : State) :
    (s.setError e).hold1 = s.hold1 := by cases e <;> rfl
@[simp] theorem State.setError_vcnt (e : ErrorBit) (s : State) :
    (s.setError e).vcnt = s.vcnt := by cases e <;> rfl
@[simp] theorem State.setError_mode (e : ErrorBit) (s : State) :
    (s.setError e).mode = s.mode := by cases e <;> rfl
@[simp] theorem State.setError_vres (e : ErrorBit) (s : State) :
    (s.setError e).vres = s.vres := by cases e <;> rfl
@[simp] theorem State.setError_result (e : ErrorBit) (s : State) :
    (s.setError e).result = s.result := by cases e <;> rfl
@[simp] theorem State.setError_errIll (e : ErrorBit) (s : State) :
    (s.setError e).errIll = (s.errIll || decide (e = .illegal)) := by cases e <;> simp [State.setError]
@[simp] theorem State.setError_errNoTable (e : ErrorBit) (s : State) :
    (s.setError e).errNoTable = (s.errNoTable || decide (e = .noTable)) := by cases e <;> simp [State.setError]
@[simp] theorem State.setError_errMode (e : ErrorBit) (s : State) :
    (s.setError e).errMode = (s.errMode || decide (e = .mode)) := by cases e <;> simp [State.setError]
@[simp] theorem State.setError_pending (e : ErrorBit) (s : State) :
    (s.setError e).pending = s.pending := by cases e <;> rfl
@[simp] theorem State.setError_response (e : ErrorBit) (s : State) :
    (s.setError e).response = s.response := by cases e <;> rfl
@[simp] theorem State.setError_tableDraw (e : ErrorBit) (s : State) :
    (s.setError e).tableDraw = s.tableDraw := by cases e <;> rfl
@[simp] theorem State.setError_tableEntry (e : ErrorBit) (s : State) (i : Byte) :
    (s.setError e).tableEntry i = s.tableEntry i := by cases e <;> rfl

end Sys2Proof.Machine
end

