-- ==== Sys2Proof/Laws/Table.lean ====
section
/-! SUPPORT. The laws of the table RAM: read after write, the canonical form kept, equal reads of
canonical tables mean equal tables, and what the built table holds. -/

namespace Sys2Proof.Machine

/-- Reading the entry just written gives the value written. -/
@[simp] theorem Table.entry?_write_self (t : Table) (i : Nat) (v : Word) :
    Table.entry? (Table.write t i v) i = some v := by
  induction t with
  | nil => simp [Table.write, Table.entry?]
  | cons p rest ih =>
    obtain ⟨j, u⟩ := p
    simp only [Table.write]
    split
    · simp [Table.entry?]
    · split
      · simp [Table.entry?]
      · next h => simpa [Table.entry?, Ne.symm h] using ih

/-- A write leaves every other entry alone. -/
theorem Table.entry?_write_of_ne (t : Table) (v : Word) {i j : Nat} (h : i ≠ j) :
    Table.entry? (Table.write t i v) j = Table.entry? t j := by
  induction t with
  | nil => simp [Table.write, Table.entry?, h]
  | cons p rest ih =>
    obtain ⟨k, u⟩ := p
    simp only [Table.write]
    split
    · simp [Table.entry?, h]
    · split
      · next hk => subst hk; simp [Table.entry?, h]
      · simp [Table.entry?, ih]

/-- A write keeps the indexes rising. -/
theorem Table.risesFrom_write (t : Table) (v : Word) {lo i : Nat} (hlo : lo ≤ i)
    (hi : i < Config.tableEntries) (ht : Table.risesFrom lo t = true) :
    Table.risesFrom lo (Table.write t i v) = true := by
  induction t generalizing lo with
  | nil => simp [Table.write, Table.risesFrom, hlo, hi]
  | cons p rest ih =>
    obtain ⟨j, u⟩ := p
    simp only [Table.risesFrom, Bool.and_eq_true, decide_eq_true_eq] at ht
    obtain ⟨⟨hj, hj'⟩, hr⟩ := ht
    simp only [Table.write]
    split
    · next h => simp [Table.risesFrom, hlo, hi, hj', hr, Nat.succ_le_of_lt h]
    · split
      · next h => subst h; simp [Table.risesFrom, hlo, hi, hr]
      · next h1 h2 => simp [Table.risesFrom, hj, hj', ih (by omega) hr]

/-- A write keeps the canonical form. -/
theorem Table.wf_write (t : Table) (v : Word) {i : Nat} (hi : i < Config.tableEntries)
    (ht : t.wf = true) : (Table.write t i v).wf = true :=
  Table.risesFrom_write t v (Nat.zero_le i) hi ht

/-- Writing a list of indexes keeps the canonical form. -/
theorem Table.wf_writes (f : Nat → Word) (is : List Nat) (t : Table)
    (his : ∀ i ∈ is, i < Config.tableEntries) (ht : t.wf = true) :
    Table.wf (is.foldr (fun i acc => Table.write acc i (f i)) t) = true := by
  induction is with
  | nil => simpa using ht
  | cons i rest ih =>
    exact Table.wf_write _ _ (his i (by simp)) (ih fun j hj => his j (by simp [hj]))

/-- Building keeps the canonical form. -/
theorem Table.wf_build (t : Table) (ht : t.wf = true) : t.build.wf = true := by
  unfold Table.build
  refine Table.wf_writes (fun i => gen (BitVec.ofNat 8 i)) (List.range Config.tableEntries) t ?_ ht
  intro i hi
  rwa [List.mem_range] at hi

/-- After writing a list of indexes, an index of the list holds what was written to it. -/
theorem Table.entry?_writes (f : Nat → Word) (is : List Nat) (t : Table) {k : Nat} (hk : k ∈ is) :
    Table.entry? (is.foldr (fun i acc => Table.write acc i (f i)) t) k = some (f k) := by
  induction is with
  | nil => simp at hk
  | cons i rest ih =>
    by_cases h : i = k
    · subst h; simp
    · have hk' : k ∈ rest := by simpa [Ne.symm h] using hk
      simpa [Table.entry?_write_of_ne _ _ h] using ih hk'

/-- The built table holds `gen(k)` at every index k, whatever the table held before. -/
@[simp] theorem Table.entry?_build (t : Table) (k : Byte) :
    Table.entry? t.build k.toNat = some (gen k) := by
  have h := Table.entry?_writes (fun i => gen (BitVec.ofNat 8 i)) (List.range Config.tableEntries) t
    (k := k.toNat) (by rw [List.mem_range]; unfold Config.tableEntries; omega)
  unfold Table.build
  simpa only [BitVec.ofNat_toNat, BitVec.setWidth_eq] using h

/-- `TABLE[k]` after the table is built. -/
@[simp] theorem State.buildTable_tableEntry (s : State) (k : Byte) :
    s.buildTable.tableEntry k = gen k := by
  simp [State.tableEntry]

/-- `TABLE[k]` after a reset is the free value. -/
@[simp] theorem State.resetBlock_tableEntry (s : State) (k : Byte) :
    s.resetBlock.tableEntry k = Config.tableContents (s.tableDraw + 1) k := rfl

/-- A canonical table has no entry below its bound. -/
theorem Table.entry?_lt_eq_none (t : Table) {lo i : Nat} (ht : Table.risesFrom lo t = true)
    (h : i < lo) : Table.entry? t i = none := by
  induction t generalizing lo with
  | nil => rfl
  | cons p rest ih =>
    obtain ⟨j, u⟩ := p
    simp only [Table.risesFrom, Bool.and_eq_true, decide_eq_true_eq] at ht
    have hji : j ≠ i := by omega
    simp [Table.entry?, hji, ih ht.2 (by omega)]

/-- A canonical table has no entry at 256 or above. -/
theorem Table.entry?_ge_eq_none (t : Table) {lo i : Nat} (ht : Table.risesFrom lo t = true)
    (h : Config.tableEntries ≤ i) : Table.entry? t i = none := by
  induction t generalizing lo with
  | nil => rfl
  | cons p rest ih =>
    obtain ⟨j, u⟩ := p
    simp only [Table.risesFrom, Bool.and_eq_true, decide_eq_true_eq] at ht
    have hji : j ≠ i := by omega
    simp [Table.entry?, hji, ih ht.2]

/-- Two tables with rising indexes and equal entries are equal. -/
theorem Table.ext_risesFrom (t u : Table) {lo : Nat} (ht : Table.risesFrom lo t = true)
    (hu : Table.risesFrom lo u = true) (h : ∀ i, Table.entry? t i = Table.entry? u i) : t = u := by
  induction t generalizing lo u with
  | nil =>
    cases u with
    | nil => rfl
    | cons q _ => simpa [Table.entry?] using h q.1
  | cons p rest ih =>
    obtain ⟨j, a⟩ := p
    cases u with
    | nil => simpa [Table.entry?] using h j
    | cons q more =>
      obtain ⟨k, b⟩ := q
      simp only [Table.risesFrom, Bool.and_eq_true, decide_eq_true_eq] at ht hu
      have hjk : j = k := by
        rcases Nat.lt_trichotomy j k with hlt | heq | hlt
        · have := h j
          rw [Table.entry?_lt_eq_none ((k, b) :: more) (lo := k) (by simp [Table.risesFrom, hu]) hlt]
            at this
          simp [Table.entry?] at this
        · exact heq
        · have := h k
          rw [Table.entry?_lt_eq_none ((j, a) :: rest) (lo := j) (by simp [Table.risesFrom, ht]) hlt]
            at this
          simp [Table.entry?] at this
      subst hjk
      have hab : a = b := by simpa [Table.entry?] using h j
      subst hab
      rw [ih more ht.2 hu.2 fun i => ?_]
      by_cases hi : j = i
      · subst hi
        rw [Table.entry?_lt_eq_none rest ht.2 (Nat.lt_succ_self j),
          Table.entry?_lt_eq_none more hu.2 (Nat.lt_succ_self j)]
      · simpa [Table.entry?, hi] using h i

/-- Canonical tables with equal entries are equal data. -/
theorem Table.ext_of_wf (t u : Table) (ht : t.wf = true) (hu : u.wf = true)
    (h : ∀ i, Table.entry? t i = Table.entry? u i) : t = u :=
  Table.ext_risesFrom t u ht hu h

end Sys2Proof.Machine
end

