-- ==== Sys2Proof/Laws/Exec.lean ====
section
/-! SUPPORT. For each meaning and each host event, everything it can do: "if it answers next t, then one
of these cases holds". Proofs cite these and unfold no meaning. -/

namespace Sys2Proof.Machine

/-- `refuse` always answers, with the one bit set (spec/60_exceptions.md R202). -/
theorem refuse_next {e : ErrorBit} {s t : State} (h : refuse e s = .next t) : t = s.setError e := by
  simpa [refuse] using h.symm

theorem execNop_next {s t : State} (h : execNop s = .next t) : t = s := by
  simpa [execNop] using h.symm

theorem execTbuild_next {s t : State} (h : execTbuild s = .next t) : t = s.buildTable := by
  simpa [execTbuild] using h.symm

theorem execCinit_next {s t : State} (h : execCinit s = .next t) : t = s.startStream := by
  simpa [execCinit] using h.symm

theorem execTread_next {d : Byte} {s t : State} (h : execTread d s = .next t) :
    (s.tvalid = false ∧ t = s.setError .noTable) ∨
    (s.tvalid = true ∧ t = s.loadResult (s.tableEntry d)) := by
  unfold execTread at h
  split at h
  · next hv => exact .inl ⟨hv, refuse_next h⟩
  · next hv => exact .inr ⟨by simpa using hv, by simpa using h.symm⟩

theorem execCbyte_next {d : Byte} {s t : State} (h : execCbyte d s = .next t) :
    (s.tvalid = false ∧ t = s.setError .noTable) ∨
    (s.tvalid = true ∧ s.mode = .verify ∧ t = s.setError .mode) ∨
    (s.tvalid = true ∧ s.mode ≠ .verify ∧ t = s.foldByte d) := by
  unfold execCbyte at h
  split at h
  · next hv => exact .inl ⟨hv, refuse_next h⟩
  · next hv =>
    have hv' : s.tvalid = true := by simpa using hv
    split at h
    · next hm => exact .inr (.inl ⟨hv', hm, refuse_next h⟩)
    · next hm => exact .inr (.inr ⟨hv', hm, by simpa using h.symm⟩)

theorem execVbyte_next {d : Byte} {s t : State} (h : execVbyte d s = .next t) :
    (s.tvalid = false ∧ t = s.setError .noTable) ∨
    (s.tvalid = true ∧ s.mode = .compute ∧ t = s.setError .mode) ∨
    (s.tvalid = true ∧ s.mode ≠ .compute ∧ t = s.shiftIn d) := by
  unfold execVbyte at h
  split at h
  · next hv => exact .inl ⟨hv, refuse_next h⟩
  · next hv =>
    have hv' : s.tvalid = true := by simpa using hv
    split at h
    · next hm => exact .inr (.inl ⟨hv', hm, refuse_next h⟩)
    · next hm => exact .inr (.inr ⟨hv', hm, by simpa using h.symm⟩)

theorem execVend_next {s t : State} (h : execVend s = .next t) :
    (s.mode = .compute ∧ t = s.setError .mode) ∨
    (s.mode ≠ .compute ∧ t = s.setVerdict s.verdict) := by
  unfold execVend at h
  split at h
  · next hm => exact .inl ⟨hm, refuse_next h⟩
  · next hm => exact .inr ⟨hm, by simpa using h.symm⟩

/-- Every way a command can end: as NOP, as a refusal that sets one bit, or with its own effect under
its guards. -/
theorem exec_next {i : Instr} {s t : State} (h : exec i s = .next t) :
    (i = .nop ∧ t = s) ∨ (readsTable i = true ∧ s.tvalid = false ∧ t = s.setError .noTable) ∨
    (wrongStream i s.mode = true ∧ (readsTable i = true → s.tvalid = true) ∧ t = s.setError .mode) ∨
    (i = .tbuild ∧ t = s.buildTable) ∨ (i = .cinit ∧ t = s.startStream) ∨
    (∃ d, i = .cbyte d ∧ s.tvalid = true ∧ s.mode ≠ .verify ∧ t = s.foldByte d) ∨
    (∃ d, i = .vbyte d ∧ s.tvalid = true ∧ s.mode ≠ .compute ∧ t = s.shiftIn d) ∨
    (i = .vend ∧ s.mode ≠ .compute ∧ t = s.setVerdict s.verdict) ∨
    (∃ d, i = .tread d ∧ s.tvalid = true ∧ t = s.loadResult (s.tableEntry d)) := by
  cases i with
  | nop => simp [execNop_next h]
  | tbuild => simp [execTbuild_next h]
  | cinit => simp [execCinit_next h]
  | cbyte d => rcases execCbyte_next h with ⟨_, rfl⟩ | ⟨_, _, rfl⟩ | ⟨hv, hm, rfl⟩ <;>
      simp_all [readsTable, wrongStream]
  | vbyte d => rcases execVbyte_next h with ⟨_, rfl⟩ | ⟨_, _, rfl⟩ | ⟨hv, hm, rfl⟩ <;>
      simp_all [readsTable, wrongStream]
  | vend => rcases execVend_next h with ⟨_, rfl⟩ | ⟨hm, rfl⟩ <;>
      simp_all [readsTable, wrongStream]
  | tread d => rcases execTread_next h with ⟨_, rfl⟩ | ⟨hv, rfl⟩ <;>
      simp_all [readsTable, wrongStream]

/-- A word written to CMD runs its command, or is refused as illegal (spec/20_memory.md R52). -/
theorem commandWrite_next {w : Word} {s t : State} (h : commandWrite w s = .next t) :
    (decode w = none ∧ t = s.setError .illegal) ∨ (∃ i, decode w = some i ∧ exec i s = .next t) := by
  unfold commandWrite at h
  split at h
  · next i hi => exact .inr ⟨i, hi, h⟩
  · next hn => exact .inl ⟨hn, refuse_next h⟩

/-- A write does what CMD does at offset 0, and nothing elsewhere (R52, R53). -/
theorem hostWrite_next {off : Offset} {v : Word} {s t : State} (h : hostWrite off v s = .next t) :
    (registerAt off = .cmd ∧ commandWrite v s = .next t) ∨ (registerAt off ≠ .cmd ∧ t = s) := by
  unfold hostWrite at h
  split at h
  case h_1 hc => exact .inl ⟨hc, h⟩
  all_goals next hc => exact .inr ⟨by simp [hc], by simpa using h.symm⟩

/-- Everything one step can do: wait, reset, perform a read, perform a write, or take a request that is
no transaction. -/
theorem step_next {s t : State} (h : step s = .next t) :
    (s.pending = [] ∧ t = s.respond .idle) ∨
    (∃ rest, s.pending = .reset :: rest ∧ t = (s.withPending rest).resetBlock) ∨
    (∃ r rest, s.pending = .request r :: rest ∧
      ((r.wr = true ∧ hostWrite r.addr r.wdata ((s.withPending rest).respond .done) = .next t) ∨
       (r.wr = false ∧ r.rd = true ∧
         t = (s.withPending rest).respond (.data ((s.withPending rest).hostRead r.addr))) ∨
       (r.wr = false ∧ r.rd = false ∧ t = (s.withPending rest).respond .idle))) := by
  unfold step at h
  split at h
  · next hp => exact .inl ⟨hp, by simpa [wait] using h.symm⟩
  · next e rest hp =>
    cases e with
    | reset => exact .inr (.inl ⟨rest, hp, by simpa [performEvent] using h.symm⟩)
    | request r =>
      refine .inr (.inr ⟨r, rest, hp, ?_⟩)
      rcases hw : r.wr with _ | _
      · rcases hr : r.rd with _ | _
        · exact .inr (.inr ⟨rfl, rfl, by
            simpa [performEvent, performRequest, PortRequest.transaction, hw, hr] using h.symm⟩)
        · exact .inr (.inl ⟨rfl, rfl, by
            simpa [performEvent, performRequest, PortRequest.transaction, hw, hr] using h.symm⟩)
      · exact .inl ⟨rfl, by
          simpa [performEvent, performRequest, PortRequest.transaction, hw] using h⟩

end Sys2Proof.Machine
end

