-- ==== Sys2Proof/Laws/PerInstr.lean ====
section
/-! SUPPORT. Statements about every command as syntax, one lemma per constructor: a command's word has
fields that R74 calls legal. -/

namespace Sys2Proof.Laws

/-- The word of a command is a legal one (spec/30_encoding.md R74, R79). -/
def EncodingWellFormed.Statement (i : Instr) : Prop := (fieldsOf (encode i)).wellFormed = true

theorem EncodingWellFormed.nop : EncodingWellFormed.Statement .nop := by
  unfold EncodingWellFormed.Statement; decide

theorem EncodingWellFormed.tbuild : EncodingWellFormed.Statement .tbuild := by
  unfold EncodingWellFormed.Statement; decide

theorem EncodingWellFormed.cinit : EncodingWellFormed.Statement .cinit := by
  unfold EncodingWellFormed.Statement; decide

/-- The upper byte of a word with an operand is the pattern's. -/
theorem fieldsOf_or_operand (p : Word) (d : Byte) (hp : p &&& 0xFF#16 = 0#16) :
    fieldsOf (p ||| d.setWidth 16)
      = { op := p.extractLsb' 12 4, rsv := p.extractLsb' 8 4, d := d } := by
  have hlow : ∀ k, k < 8 → p.getLsbD k = false := by
    intro k hk
    have := congrArg (fun v => v.getLsbD k) hp
    have hm : (0xFF#16).getLsbD k = true := by interval_cases k <;> rfl
    simpa [hm] using this
  simp only [fieldsOf, Fields.mk.injEq]
  refine ⟨?_, ?_, ?_⟩ <;> ext k hk
  · simp [BitVec.getLsbD_of_ge d (12 + k) (by omega)]
  · simp
  · have := hlow k hk
    simp_all [show k < 16 by omega]

theorem EncodingWellFormed.cbyte (d : Byte) : EncodingWellFormed.Statement (.cbyte d) := by
  unfold EncodingWellFormed.Statement encode
  rw [fieldsOf_or_operand _ _ (by decide)]; rfl

theorem EncodingWellFormed.vbyte (d : Byte) : EncodingWellFormed.Statement (.vbyte d) := by
  unfold EncodingWellFormed.Statement encode
  rw [fieldsOf_or_operand _ _ (by decide)]; rfl

theorem EncodingWellFormed.vend : EncodingWellFormed.Statement .vend := by
  unfold EncodingWellFormed.Statement; decide

theorem EncodingWellFormed.tread (d : Byte) : EncodingWellFormed.Statement (.tread d) := by
  unfold EncodingWellFormed.Statement encode
  rw [fieldsOf_or_operand _ _ (by decide)]; rfl

end Sys2Proof.Laws
end

