-- ==== Sys2Proof/Laws/Run.lean ====
section
/-! SUPPORT. Runs of the step function and of command sequences. -/

namespace Sys2Proof.Machine

theorem run_zero (s : State) : run 0 s = .next s := rfl

/-- The first step of a run. -/
theorem run_succ {n : Nat} {s t : State} (h : step s = .next t) : run (n + 1) s = run n t := by
  rw [run, h]

/-- `run` is the host's run of this machine. -/
theorem run_eq_core (n : Nat) (s : State) : Host.Core.run Sys2Proof.core n s = run n s := by
  induction n generalizing s with
  | zero => rfl
  | succ n ih =>
    have e := Host.Core.run.eq_2 Sys2Proof.core s n
    rw [run]
    cases hx : step s with
    | next t =>
      have hx' : Sys2Proof.core.step s = .next t := hx
      rw [hx'] at e
      exact e.trans (ih t)
    | fault r => cases r
    | refused r =>
      have hx' : Sys2Proof.core.step s = .refused r := hx
      rw [hx'] at e
      exact e

theorem execAll_nil (s : State) : execAll [] s = .next s := rfl

/-- The first command of a sequence. -/
theorem execAll_cons {i : Instr} {s t : State} (h : exec i s = .next t) (rest : List Instr) :
    execAll (i :: rest) s = execAll rest t := by
  rw [execAll, h]

/-- A sequence in two parts. -/
theorem execAll_append {first : List Instr} {s t : State} (h : execAll first s = .next t)
    (rest : List Instr) : execAll (first ++ rest) s = execAll rest t := by
  induction first generalizing s with
  | nil =>
    rw [execAll_nil, Host.Outcome.next.injEq] at h
    rw [List.nil_append, h]
  | cons i more ih =>
    rw [execAll] at h
    rw [List.cons_append, execAll]
    cases hx : exec i s with
    | next u => rw [hx] at h; exact ih h
    | fault r => rw [hx] at h; cases h
    | refused r => rw [hx] at h; cases h

end Sys2Proof.Machine
end

