-- ==== Sys2Proof/Tests/Slice0.lean ====
section
/-! SUPPORT. The author's tests: decoding, one step of each command, the register window, and for each
statement with hypotheses a state and operands that meet them. Expected values are those of
spec/95_test_vectors.md (the vector's id stands at the test) or are worked from the rules by hand. -/

namespace Sys2Proof.Tests

open Sys2Proof.Machine

/-! ### WellFormed: an ill-formed term for each check (30_encoding.md R74) -/

theorem test_op_7_refused :
    let f : Fields := { op := 7, rsv := 0, d := 0 }
    f.opDefined = false ∧ f.wellFormed = false := by decide

theorem test_rsv_nonzero_refused :
    let f : Fields := { op := 3, rsv := 1, d := 0 }
    f.rsvZero = false ∧ f.wellFormed = false := by decide

theorem test_operand_of_cinit_refused :
    let f : Fields := { op := 2, rsv := 0, d := 1 }
    f.operandAllowed = false ∧ f.wellFormed = false := by decide

theorem test_operand_of_tread_allowed :
    let f : Fields := { op := 6, rsv := 0, d := 255 }
    f.wellFormed = true := by decide

/-! ### Decode: words written bit by bit, OP RSV D (30_encoding.md R71, R73) -/

theorem test_decode_nop : decode 0b0000000000000000 = some .nop := by decide
theorem test_decode_tbuild : decode 0b0001000000000000 = some .tbuild := by decide
theorem test_decode_cinit : decode 0b0010000000000000 = some .cinit := by decide
theorem test_decode_cbyte : decode 0b0011000011011101 = some (.cbyte 0xDD) := by decide
theorem test_decode_vbyte : decode 0b0100000000100001 = some (.vbyte 0x21) := by decide
theorem test_decode_vend : decode 0b0101000000000000 = some .vend := by decide
theorem test_decode_tread : decode 0b0110000010000000 = some (.tread 128) := by decide

/-- Vectors X2, X3, X5, X7, X10, X13, X15, X18 to X21. -/
theorem test_decode_illegal :
    ([0x0001, 0x0100, 0x1001, 0x2001, 0x3100, 0x4F00, 0x5001, 0x6100, 0x7000, 0x8000, 0xFFFF].map
      decode).all Option.isNone = true := by decide

theorem test_encode_examples :
    encode (.cbyte 0xDD) = 0x30DD ∧ encode (.vbyte 0x21) = 0x4021 ∧ encode (.tread 128) = 0x6080 := by
  decide

theorem test_decodeTableWord :
    decodeTableWord 16 0x30DD = some (.cbyte 0xDD) ∧ decodeTableWord 16 0x7000 = none ∧
    decodeTableWord 32 0x30DD = none := by decide

/-! ### The generated table (95_test_vectors.md section 2) -/

/-- The table of section 2, row by row. -/
def publishedTable : List Word :=
  [0x0000, 0x1189, 0x2312, 0x329B, 0x4624, 0x57AD, 0x6536, 0x74BF,
   0x8C48, 0x9DC1, 0xAF5A, 0xBED3, 0xCA6C, 0xDBE5, 0xE97E, 0xF8F7] ++
  [0x1081, 0x0108, 0x3393, 0x221A, 0x56A5, 0x472C, 0x75B7, 0x643E,
   0x9CC9, 0x8D40, 0xBFDB, 0xAE52, 0xDAED, 0xCB64, 0xF9FF, 0xE876] ++
  [0x2102, 0x308B, 0x0210, 0x1399, 0x6726, 0x76AF, 0x4434, 0x55BD,
   0xAD4A, 0xBCC3, 0x8E58, 0x9FD1, 0xEB6E, 0xFAE7, 0xC87C, 0xD9F5] ++
  [0x3183, 0x200A, 0x1291, 0x0318, 0x77A7, 0x662E, 0x54B5, 0x453C,
   0xBDCB, 0xAC42, 0x9ED9, 0x8F50, 0xFBEF, 0xEA66, 0xD8FD, 0xC974] ++
  [0x4204, 0x538D, 0x6116, 0x709F, 0x0420, 0x15A9, 0x2732, 0x36BB,
   0xCE4C, 0xDFC5, 0xED5E, 0xFCD7, 0x8868, 0x99E1, 0xAB7A, 0xBAF3] ++
  [0x5285, 0x430C, 0x7197, 0x601E, 0x14A1, 0x0528, 0x37B3, 0x263A,
   0xDECD, 0xCF44, 0xFDDF, 0xEC56, 0x98E9, 0x8960, 0xBBFB, 0xAA72] ++
  [0x6306, 0x728F, 0x4014, 0x519D, 0x2522, 0x34AB, 0x0630, 0x17B9,
   0xEF4E, 0xFEC7, 0xCC5C, 0xDDD5, 0xA96A, 0xB8E3, 0x8A78, 0x9BF1] ++
  [0x7387, 0x620E, 0x5095, 0x411C, 0x35A3, 0x242A, 0x16B1, 0x0738,
   0xFFCF, 0xEE46, 0xDCDD, 0xCD54, 0xB9EB, 0xA862, 0x9AF9, 0x8B70] ++
  [0x8408, 0x9581, 0xA71A, 0xB693, 0xC22C, 0xD3A5, 0xE13E, 0xF0B7,
   0x0840, 0x19C9, 0x2B52, 0x3ADB, 0x4E64, 0x5FED, 0x6D76, 0x7CFF] ++
  [0x9489, 0x8500, 0xB79B, 0xA612, 0xD2AD, 0xC324, 0xF1BF, 0xE036,
   0x18C1, 0x0948, 0x3BD3, 0x2A5A, 0x5EE5, 0x4F6C, 0x7DF7, 0x6C7E] ++
  [0xA50A, 0xB483, 0x8618, 0x9791, 0xE32E, 0xF2A7, 0xC03C, 0xD1B5,
   0x2942, 0x38CB, 0x0A50, 0x1BD9, 0x6F66, 0x7EEF, 0x4C74, 0x5DFD] ++
  [0xB58B, 0xA402, 0x9699, 0x8710, 0xF3AF, 0xE226, 0xD0BD, 0xC134,
   0x39C3, 0x284A, 0x1AD1, 0x0B58, 0x7FE7, 0x6E6E, 0x5CF5, 0x4D7C] ++
  [0xC60C, 0xD785, 0xE51E, 0xF497, 0x8028, 0x91A1, 0xA33A, 0xB2B3,
   0x4A44, 0x5BCD, 0x6956, 0x78DF, 0x0C60, 0x1DE9, 0x2F72, 0x3EFB] ++
  [0xD68D, 0xC704, 0xF59F, 0xE416, 0x90A9, 0x8120, 0xB3BB, 0xA232,
   0x5AC5, 0x4B4C, 0x79D7, 0x685E, 0x1CE1, 0x0D68, 0x3FF3, 0x2E7A] ++
  [0xE70E, 0xF687, 0xC41C, 0xD595, 0xA12A, 0xB0A3, 0x8238, 0x93B1,
   0x6B46, 0x7ACF, 0x4854, 0x59DD, 0x2D62, 0x3CEB, 0x0E70, 0x1FF9] ++
  [0xF78F, 0xE606, 0xD49D, 0xC514, 0xB1AB, 0xA022, 0x92B9, 0x8330,
   0x7BC7, 0x6A4E, 0x58D5, 0x495C, 0x3DE3, 0x2C6A, 0x1EF1, 0x0F78]

theorem test_gen_is_published_table :
    (List.range 256).map (fun i => gen (BitVec.ofNat 8 i)) = publishedTable := by decide +kernel

/-- Vectors S1 to S5 and S8. -/
theorem test_step_vectors :
    crcStep 0xFFFF 0x00 = 0x0F87 ∧ crcStep 0xFFFF 0xFF = 0x00FF ∧ crcStep 0xFFFF 0x01 = 0x1E0E ∧
    crcStep 0xFFFF 0x31 = 0x2F8D ∧ crcStep 0x1234 0x34 = 0x0012 ∧ crcStep 0xABCD 0x00 = 0x1D42 := by
  decide +kernel

/-- Vectors C9 and C10. -/
theorem test_crc16_vectors :
    crc16 [0x00, 0x00, 0x00, 0x05, 0x01, 0x00, 0xDD, 0x00, 0x00] = 0x21AB ∧
    crc16 [0x31, 0x32, 0x33, 0x34, 0x35, 0x36, 0x37, 0x38, 0x39] = 0x6F91 := by decide +kernel

/-! ### One step of each command -/

/-- Reset with TVALID = 1 and only the given entries written. -/
def tableState (t : Table) : State := { State.reset with table := t, tvalid := true }

/-- What the host reads after an outcome: CRC, RESULT, STATUS, HOLD. -/
def hostView (o : Host.Outcome State Fault Refusal) : Option (Word × Word × Word × Word) :=
  match o with
  | .next t => some (t.hostRead 1, t.hostRead 2, t.hostRead 3, t.hostRead 4)
  | .fault _ => none
  | .refused _ => none

/-- Vector N4. -/
theorem test_nop : hostView (exec .nop State.reset) = some (0xFFFF, 0x0000, 0x0000, 0x0000) := by decide

/-- Vector T1. -/
theorem test_tbuild_view :
    hostView (exec .tbuild State.reset) = some (0xFFFF, 0x0000, 0x0001, 0x0000) := by decide

theorem test_tbuild_entry : State.reset.buildTable.tableEntry 0xFF = 0x0F78 := by
  rw [State.buildTable_tableEntry]; decide

/-- Vector T2. -/
theorem test_tread_no_table :
    hostView (exec (.tread 0) State.reset) = some (0xFFFF, 0x0000, 0x0100, 0x0000) := by decide

/-- Vector T5. -/
theorem test_tread :
    hostView (exec (.tread 0xFF) (tableState [(0x0F, 0xF8F7), (0xFF, 0x0F78)]))
      = some (0xFFFF, 0x0F78, 0x0001, 0x0000) := by decide

/-- Vector C15, with STATUS 0x0381 before. -/
theorem test_cinit :
    hostView (exec .cinit
      { tableState [] with errIll := true, errNoTable := true, errMode := true, result := 0x2312 })
      = some (0xFFFF, 0x2312, 0x0001, 0x0000) := by decide

/-- Vector X8. -/
theorem test_cbyte :
    hostView (exec (.cbyte 0x00) (tableState [(0xFF, 0x0F78)]))
      = some (0x0F87, 0x0000, 0x0003, 0x0000) := by decide

/-- Vector C14. -/
theorem test_cbyte_in_verify :
    hostView (exec (.cbyte 0x34) { tableState [] with mode := .verify, vcnt := 1, hold1 := 0x12 })
      = some (0xFFFF, 0x0000, 0x0225, 0x1200) := by decide

/-- HOLD0 is folded, not D, and the line shifts (R141, worked by hand from vector S1). -/
theorem test_vbyte_folds_hold0 :
    hostView (exec (.vbyte 0x05)
      { tableState [(0xFF, 0x0F78)] with mode := .verify, vcnt := 2, hold1 := 0x01 })
      = some (0x0F87, 0x0000, 0x0045, 0x0501) := by decide

/-- Vector V17. -/
theorem test_vbyte_in_compute :
    hostView (exec (.vbyte 0x34) { tableState [] with mode := .compute, crc := 0x3C14 })
      = some (0x3C14, 0x0000, 0x0203, 0x0000) := by decide

/-- A stream that holds [0xFF, 0xFF]. -/
def twoHeld : State :=
  { tableState [] with mode := .verify, vcnt := 2, hold0 := 0xFF, hold1 := 0xFF }

/-- Vectors V3 and V4: the byte order of the comparison. -/
theorem test_vend_pass_and_fail :
    hostView (exec .vend twoHeld) = some (0xFFFF, 0x0000, 0x004D, 0xFFFF) ∧
    hostView (exec .vend { twoHeld with hold1 := 0xFE }) = some (0xFFFF, 0x0000, 0x0055, 0xFEFF) := by
  decide

/-- Vectors V21 and V2. -/
theorem test_vend_error_and_short :
    hostView (exec .vend { twoHeld with errIll := true }) = some (0xFFFF, 0x0000, 0x00D5, 0xFFFF) ∧
    hostView (exec .vend { tableState [] with mode := .verify, vcnt := 1, hold1 := 0x42 })
      = some (0xFFFF, 0x0000, 0x003D, 0x4200) := by decide

/-! ### The port -/

/-- Program P3, row 12: a reserved opcode written to CMD. -/
theorem test_step_illegal_word :
    hostView (step ({ twoHeld with vres := .fail, errMode := true }.withFetchWord 16 0x7000))
      = some (0xFFFF, 0x0000, 0x02D5, 0xFFFF) := by decide

theorem test_step_fetch_word :
    step (State.reset.withFetchWord 16 0x1000) = exec .tbuild (State.reset.respond .done) := rfl

/-- Vector H2, offset 1, and H1, offset 7. -/
theorem test_host_read :
    step (State.reset.withPending [readRequest 1, readRequest 7])
      = .next ((State.reset.withPending [readRequest 7]).respond (.data 0xFFFF)) ∧
    step (State.reset.withPending [readRequest 7])
      = .next (State.reset.respond (.data 0x0000)) := ⟨rfl, rfl⟩

/-- R66: with both strobes the request is a write. -/
theorem test_both_strobes_write :
    ({ addr := 1, wr := true, rd := true, wdata := 0x1234 } : PortRequest).transaction
      = some (.write 1 0x1234) := by decide

/-! ### The assembler (30_encoding.md R77, R78) -/

theorem test_assemble_lines :
    assemble "TBUILD  ; build\nCRC16 0x12, 52\n.word 0x7000\nVERIFY\nTREAD 0xfF\n".toList
      = some [0x1000, 0x2000, 0x3012, 0x3034, 0x7000, 0x2000, 0x5000, 0x60FF] := by decide

theorem test_assemble_errors :
    assemble "NOP 0".toList = none ∧ assemble "CBYTE".toList = none ∧
    assemble "CBYTE 256".toList = none ∧ assemble "cinit".toList = none := by decide

/-! ### Hypotheses met: for each statement with hypotheses, a state and operands that meet them -/

/-- The machine after reset and TBUILD. -/
def builtState : State := State.reset.buildTable

theorem test_reset_invariant : Invariant State.reset := by
  constructor <;> simp [State.reset]
  decide

theorem test_built_invariant : Invariant builtState := by
  constructor <;> simp [builtState, State.reset]
  exact Table.wf_build _ rfl

/-- The premises of ChecksumStreamComputesCrc16, VerifyVerdictOfFrame, RoundTripPasses, TwoByteFrames,
CbyteFoldsByte, VbyteShiftsDelayLine, VendReportsVerdict and StepEqualsBitwiseStep. -/
theorem test_built_premises :
    builtState.tvalid = true ∧ TableBuilt builtState ∧ builtState.mode = .idle :=
  ⟨rfl, fun k => State.buildTable_tableEntry _ k, rfl⟩

theorem test_premise_ResetSetsEveryPieceOfState :
    (builtState.withPending [.reset]).pending = .reset :: [] := rfl

theorem test_premise_ResetLeavesStreamAsCinitDoes : ResetValues State.reset :=
  ⟨rfl, rfl, rfl, rfl, rfl, rfl, rfl, rfl, rfl, rfl, rfl, 0, fun _ => rfl⟩

theorem test_premise_StepKeepsInvariant :
    Invariant State.reset ∧ step State.reset = .next (State.reset.respond .idle) :=
  ⟨test_reset_invariant, rfl⟩

theorem test_premise_EncodeDecodeRoundTrip : decode 0x60FF = some (.tread 255) := by decide

theorem test_premise_DecodeFollowsFieldPseudocode :
    decode 0x0001 = none ∧ ∃ row ∈ opcodeMap, (0x30FF : Word) &&& row.mask = row.pattern := by decide

theorem test_premise_StepRunsDecodedCommand :
    (builtState.withPending [cmdRequest 0x30FF]).pending = [cmdRequest 0x30FF] ∧
    decode 0x30FF = some (.cbyte 255) ∧ decode 0x6FFF = none := ⟨rfl, by decide, by decide⟩

theorem test_premise_HostReadReturnsRegister :
    (builtState.withPending [readRequest 4]).pending
      = .request { addr := 4, wr := false, rd := true, wdata := 0 } :: [] := rfl

theorem test_premise_WritesToOtherOffsetsIgnored :
    (7 : Offset) ≠ 0 ∧
    (builtState.withPending
      [.request { addr := 7, wr := true, rd := true, wdata := 0x2000 }]).pending
      = .request { addr := 7, wr := true, rd := true, wdata := 0x2000 } :: [] := ⟨by decide, rfl⟩

theorem test_premise_IdleStepWaits : builtState.pending = [] := rfl

theorem test_premise_PendingCommandsRunInOrder :
    (builtState.withPending (cmdRequests [.cinit, .cbyte 255] ++ [.reset])).pending
      = cmdRequests [.cinit, .cbyte 255] ++ [.reset] := rfl

/-- A word of each opcode without operand but with D, and of each with operand but with RSV. -/
theorem test_premise_illegal_words :
    (fieldsOf 0x00FF).op = 0 ∧ (fieldsOf 0x1001).op = 1 ∧ (fieldsOf 0x2FFF).op = 2 ∧
    (fieldsOf 0x5001).op = 5 ∧ (fieldsOf 0x3F00).op = 3 ∧ (fieldsOf 0x3F00).rsv ≠ 0 ∧
    (fieldsOf 0x4100).op = 4 ∧ (fieldsOf 0x4100).rsv ≠ 0 ∧ (fieldsOf 0x6100).op = 6 ∧
    (fieldsOf 0x6100).rsv ≠ 0 := by decide

theorem test_premise_TbuildWritesGeneratedTable :
    (Invariant builtState ∧ builtState.tvalid = true) ∧
    { State.reset with errNoTable := true }.mode ≠ .compute := ⟨⟨test_built_invariant, rfl⟩, by decide⟩

theorem test_premise_SecondTbuildChangesNothing :
    State.reset.table.wf = true ∧ exec .tbuild State.reset = .next builtState := ⟨rfl, rfl⟩

theorem test_premise_TreadCopiesEntry :
    builtState.tvalid = true ∧ State.reset.tvalid = false ∧
    exec .tbuild State.reset = .next builtState := ⟨rfl, rfl, rfl⟩

theorem test_premise_CinitStartsStream :
    Instr.vend ≠ .cinit ∧ exec .nop { twoHeld with errMode := true }
      = .next { twoHeld with errMode := true } := ⟨by decide, rfl⟩

/-- Each case of CBYTE: no table, the other stream, accepted. -/
theorem test_premise_CbyteFoldsByte :
    State.reset.tvalid = false ∧ (twoHeld.tvalid = true ∧ twoHeld.mode = .verify) ∧
    (builtState.tvalid = true ∧ builtState.mode ≠ .verify) := by
  refine ⟨rfl, ⟨rfl, rfl⟩, rfl, ?_⟩
  decide

/-- Each case of VBYTE, and a refused one that a VEND follows. -/
theorem test_premise_VbyteShiftsDelayLine :
    (State.reset.tvalid = false ∧ exec (.vbyte 1) State.reset
      = .next (State.reset.setError .noTable) ∧ (State.reset.setError .noTable).mode ≠ .compute) ∧
    (builtState.foldByte 0).tvalid = true ∧ (builtState.foldByte 0).mode = .compute ∧
    (twoHeld.tvalid = true ∧ twoHeld.mode ≠ .compute ∧ twoHeld.vcnt = 2) := by
  refine ⟨⟨rfl, rfl, by decide⟩, rfl, rfl, rfl, by decide, rfl⟩

/-- Each case of VEND outside COMPUTE at a boundary: a set bit, one byte, a match, a mismatch. -/
theorem test_premise_VendReportsVerdict :
    (builtState.foldByte 0).mode = .compute ∧ twoHeld.mode ≠ .compute ∧
    { twoHeld with errIll := true }.errIll = true ∧
    (twoHeld.errIll = false ∧ twoHeld.errNoTable = false ∧ twoHeld.errMode = false) ∧
    { twoHeld with vcnt := 1 }.vcnt ≠ 2 ∧
    (twoHeld.vcnt = 2 ∧ twoHeld.crc = twoHeld.hold1 ++ twoHeld.hold0) ∧
    ({ twoHeld with hold1 := 0xFE }.vcnt = 2 ∧
      { twoHeld with hold1 := 0xFE }.crc ≠ (0xFE#8 ++ 0xFF#8 : Word)) ∧
    exec .vend twoHeld = .next (twoHeld.setVerdict .pass) ∧
    exec .vend (twoHeld.setVerdict .pass) = .next (twoHeld.setVerdict .pass) := by
  refine ⟨rfl, by decide, rfl, ⟨rfl, rfl, rfl⟩, by decide, ⟨rfl, by decide⟩, ⟨rfl, by decide⟩,
    rfl, rfl⟩

theorem test_premise_RefusalCausesInOrder :
    decode 0xFFFF = none ∧ (decode 0x60FF = some (.tread 255) ∧ State.reset.tvalid = false) ∧
    (decode 0x3000 = some (.cbyte 0) ∧ twoHeld.tvalid = true ∧ wrongStream (.cbyte 0) .verify = true) ∧
    (decode 0x5000 = some .vend ∧ wrongStream .vend .idle = false) := by decide

theorem test_premise_RefusalCausesInOrder_invariant :
    Invariant (builtState.shiftIn 0) ∧ (builtState.shiftIn 0).mode ≠ .idle := by
  refine ⟨?_, by decide⟩
  constructor <;> simp [builtState, State.reset, vcntNext, Config.vcntMax]
  exact Table.wf_build _ rfl

theorem test_premise_ErrorBitsClearedOnlyByCinitAndReset :
    step (State.reset.withPending [cmdRequest 0x2000]) = .next (State.reset.respond .done) ∧
    step (twoHeld.withPending [cmdRequest 0x0000]) = .next (twoHeld.respond .done) := ⟨rfl, rfl⟩

theorem test_premise_ErrorBitsChangeOnlyTheVerdict :
    Instr.nop ≠ .vend ∧ exec .nop twoHeld = .next twoHeld ∧
    ({ twoHeld with errMode := true }.mode ≠ .compute) := ⟨by decide, rfl, by decide⟩

/-- Two states with different draws of TABLE, and a step of one of them. -/
theorem test_premise_TableContentsBeforeBuildUnobservable :
    AgreeButDraw State.reset { State.reset with tableDraw := 1 } ∧
    step State.reset = .next (State.reset.respond .idle) := by
  refine ⟨?_, rfl⟩
  constructor <;> simp [State.reset]

theorem test_premise_CommandsWriteOnlyTheirRegisters :
    exec (.vbyte 7) State.reset = .next (State.reset.setError .noTable) := rfl

theorem test_premise_GenHighBytesDistinct :
    (gen 0xFF).extractLsb' 8 8 = (gen 0xFF).extractLsb' 8 8 := rfl

theorem test_premise_VerifyStreamState :
    (∀ i ∈ [Instr.vbyte 255, .nop, .vend], keepsVerifyStream i = true) ∧
    builtState.tvalid = true ∧ TableBuilt builtState ∧ builtState.crc = 0xFFFF ∧
    builtState.hold0 = 0x00 ∧ builtState.hold1 = 0x00 ∧ builtState.vcnt = 0 ∧
    builtState.mode = .idle :=
  ⟨by decide, rfl, test_built_premises.2.1, rfl, rfl, rfl, rfl, rfl⟩

/-- A passing frame at the least length, its last byte and that byte's last bit. -/
theorem test_premise_SingleBitTamperFails :
    2 ≤ [0xFF#8, 0xFF].length ∧ verifyFrame [0xFF, 0xFF] = true ∧ 1 < [0xFF#8, 0xFF].length ∧
    (7 : Nat) < 8 := by decide

/-- The three classes of frame: below two bytes, passing, failing (R144, R147, R148). -/
theorem test_premise_frame_classes :
    [0x42#8].length < 2 ∧ (2 ≤ [0xFF#8, 0xFF].length ∧ verifyFrame [0xFF, 0xFF] = true) ∧
    (2 ≤ [0xFF#8, 0xFE].length ∧ verifyFrame [0xFF, 0xFE] = false) := by decide

theorem test_premise_HostReadsVerdictOfFrame :
    (builtState.withPending (cmdRequests (verifyCommands [0xFF]) ++ [readRequest 3])).pending
      = cmdRequests (verifyCommands [0xFF]) ++ readRequest 3 :: [] := rfl

end Sys2Proof.Tests
end

section
/-! PROOF. The host's transactions (spec/20_memory.md R51 to R54, R66): what each function of the window
answers, as equations, and the three statements about one request at the port. -/

namespace Sys2Proof.Machine

/-! ### The register window -/

/-- R51's table, offset by offset. -/
theorem registerAt_eq (off : Offset) :
    registerAt off =
      if off = 0 then .cmd else if off = 1 then .crc else if off = 2 then .result
      else if off = 3 then .status else if off = 4 then .hold else .reserved := by
  decide +revert

/-- CMD stands at offset 0 and nowhere else. -/
theorem registerAt_eq_cmd_iff (off : Offset) : registerAt off = .cmd ↔ off = 0 := by
  decide +revert

/-- The read values of R51's table: CMD and the reserved offsets read 0. -/
theorem State.hostRead_eq (s : State) (off : Offset) :
    s.hostRead off =
      if off = 1 then s.crc else if off = 2 then s.result else if off = 3 then s.status
      else if off = 4 then s.hold1 ++ s.hold0 else 0x0000 := by
  rw [State.hostRead, registerAt_eq]
  by_cases hcmd : off = 0
  · subst hcmd; rfl
  · rw [if_neg hcmd]; split_ifs <;> rfl

/-- A read does not see what the host has yet to present. -/
@[simp] theorem State.withPending_hostRead (rest : List HostEvent) (s : State) (off : Offset) :
    (s.withPending rest).hostRead off = s.hostRead off := by
  simp only [State.hostRead]
  cases registerAt off <;> rfl

/-! ### Writes -/

theorem commandWrite_of_decode {w : Word} {i : Instr} (h : decode w = some i) (s : State) :
    commandWrite w s = exec i s := by
  rw [commandWrite, h]

theorem commandWrite_of_illegal {w : Word} (h : decode w = none) (s : State) :
    commandWrite w s = .next (s.setError .illegal) := by
  rw [commandWrite, h, refuse]

theorem hostWrite_cmd (v : Word) (s : State) : hostWrite 0 v s = commandWrite v s := rfl

theorem hostWrite_of_ne_zero {off : Offset} (h : off ≠ 0) (v : Word) (s : State) :
    hostWrite off v s = .next s := by
  have hne : registerAt off ≠ .cmd := mt (registerAt_eq_cmd_iff off).mp h
  rw [hostWrite]
  cases hreg : registerAt off with
  | cmd => exact absurd hreg hne
  | crc | result | status | hold | reserved => rfl

/-! ### One request in one step -/

/-- A step performs the first pending event. -/
theorem step_of_pending {s : State} {e : HostEvent} {rest : List HostEvent}
    (h : s.pending = e :: rest) : step s = performEvent e (s.withPending rest) := by
  rw [step, h]

/-- A request with `wr` is a write, whatever `rd` is (R66). -/
theorem step_of_write {s : State} {rest : List HostEvent} {off : Offset} {rd : Bool} {v : Word}
    (h : s.pending = .request { addr := off, wr := true, rd := rd, wdata := v } :: rest) :
    step s = hostWrite off v ((s.withPending rest).respond .done) := by
  rw [step_of_pending h]; rfl

/-- A request with `rd` alone is a read (R66). -/
theorem step_of_read {s : State} {rest : List HostEvent} {off : Offset} {x : Word}
    (h : s.pending = .request { addr := off, wr := false, rd := true, wdata := x } :: rest) :
    step s = .next ((s.withPending rest).respond (.data (s.hostRead off))) := by
  rw [step_of_pending h, ← s.withPending_hostRead rest]; rfl

/-! ### The statements -/

/-- Settles O10: the step is the write to CMD, which runs the decoded command or sets ERR_ILL. -/
theorem stepRunsDecodedCommand : Obligations.StepRunsDecodedCommand := by
  intro s rest rd w hp
  have hstep : step s = commandWrite w ((s.withPending rest).respond .done) := by
    rw [step_of_write hp, hostWrite_cmd]
  constructor
  · intro i hi
    rw [hstep, commandWrite_of_decode hi]; rfl
  · intro hn
    rw [hstep, commandWrite_of_illegal hn]; rfl

/-- Settles O11: the step is a read, whose value is R51's table. -/
theorem hostReadReturnsRegister : Obligations.HostReadReturnsRegister := by
  intro s rest off x hp
  rw [step_of_read hp, State.hostRead_eq]; rfl

/-- Settles O12: the step is a write, and a write beside CMD leaves the state as it is. -/
theorem writesToOtherOffsetsIgnored : Obligations.WritesToOtherOffsetsIgnored := by
  intro s rest off rd v hoff hp
  rw [step_of_write hp, hostWrite_of_ne_zero hoff]; rfl

end Sys2Proof.Machine
end

section
/-! PROOF. The decoder against R74 (spec/30_encoding.md R71 to R75): what each row of the opcode map asks
of a word's fields, when the rule's pseudocode refuses, and the agreement of the two. -/

namespace Sys2Proof.Machine

/-! ### Masks and fields -/

/-- The three fields determine the word: they cover its 16 bits (R71). -/
theorem fieldsOf_injective : Function.Injective fieldsOf := by
  have happend (x : Word) : x.extractLsb' 12 4 ++ x.extractLsb' 8 4 ++ x.extractLsb' 0 8 = x := by
    ext i hi
    grind
  intro v w h
  simp only [fieldsOf, Fields.mk.injEq] at h
  obtain ⟨hop, hrsv, hd⟩ := h
  rw [← happend v, hop, hrsv, hd, happend]

/-- A mask acts field by field. -/
theorem fieldsOf_and (w m : Word) :
    fieldsOf (w &&& m) =
      { op := (fieldsOf w).op &&& (fieldsOf m).op
        rsv := (fieldsOf w).rsv &&& (fieldsOf m).rsv
        d := (fieldsOf w).d &&& (fieldsOf m).d } := by
  simp [fieldsOf, BitVec.extractLsb'_and]

/-- A masked word is a pattern iff it is so in every field. -/
theorem and_eq_iff_fields (w m p : Word) :
    w &&& m = p ↔
      (fieldsOf w).op &&& (fieldsOf m).op = (fieldsOf p).op ∧
      (fieldsOf w).rsv &&& (fieldsOf m).rsv = (fieldsOf p).rsv ∧
      (fieldsOf w).d &&& (fieldsOf m).d = (fieldsOf p).d := by
  rw [← fieldsOf_injective.eq_iff, fieldsOf_and]
  cases fieldsOf p
  simp only [Fields.mk.injEq]

/-! ### The rows of the opcode map -/

/-- R73's columns: a row's mask covers `OP` and `RSV`, and `D` or not; its pattern sets `OP` alone. -/
theorem opcodeMap_columns :
    ∀ row ∈ opcodeMap,
      (row.mask = 0xFFFF ∨ row.mask = 0xFF00) ∧
      (fieldsOf row.pattern).rsv = 0 ∧ (fieldsOf row.pattern).d = 0 := by
  decide

/-- What a row of the opcode map asks of a word: the row's `OP`, a zero `RSV`, and a zero `D` where the
mask covers it. -/
theorem selected_iff_fields (w : Word) {row : OpcodeRow} (hrow : row ∈ opcodeMap) :
    w &&& row.mask = row.pattern ↔
      (fieldsOf w).op = (fieldsOf row.pattern).op ∧ (fieldsOf w).rsv = 0 ∧
      (row.mask = 0xFFFF → (fieldsOf w).d = 0) := by
  have hfull : fieldsOf 0xFFFF = ⟨BitVec.allOnes 4, BitVec.allOnes 4, BitVec.allOnes 8⟩ := by decide
  have hhigh : fieldsOf 0xFF00 = ⟨BitVec.allOnes 4, BitVec.allOnes 4, 0#8⟩ := by decide
  obtain ⟨hmask | hmask, hrsv, hd⟩ := opcodeMap_columns row hrow
  · rw [and_eq_iff_fields, hmask, hfull, hrsv, hd]
    simp only [BitVec.and_allOnes, forall_const]
  · have hne : 0xFF00#16 ≠ 0xFFFF#16 := by decide
    rw [and_eq_iff_fields, hmask, hhigh, hrsv, hd]
    simp only [BitVec.and_allOnes, hne, BitVec.and_zero, BitVec.ofNat_eq_ofNat, false_implies, and_true]

/-- Every `OP` below 7 has a row, whose mask covers `D` only if the command takes no operand. -/
theorem exists_row_of_op_lt (op : BitVec 4) (hop : op.toNat < 7) :
    ∃ row ∈ opcodeMap, (fieldsOf row.pattern).op = op ∧
      (row.mask = 0xFFFF → op = 0 ∨ op = 1 ∨ op = 2 ∨ op = 5) := by
  decide +revert

/-! ### The pseudocode -/

/-- The pseudocode refuses exactly under R74's three conditions. -/
theorem decodeFields_eq_none_iff (f : Fields) :
    decodeFields f = none ↔
      7 ≤ f.op.toNat ∨ f.rsv ≠ 0 ∨ (f.d ≠ 0 ∧ (f.op = 0 ∨ f.op = 1 ∨ f.op = 2 ∨ f.op = 5)) := by
  unfold decodeFields
  split_ifs with hfield hoperand
  · tauto
  · tauto
  · have hlegal : ¬ (7 ≤ f.op.toNat ∨ f.rsv ≠ 0 ∨
        (f.d ≠ 0 ∧ (f.op = 0 ∨ f.op = 1 ∨ f.op = 2 ∨ f.op = 5))) := by tauto
    simp only [hlegal, iff_false]
    split <;> exact Option.some_ne_none _

/-- A word that the pseudocode does not refuse has a row. -/
theorem exists_row_of_decodeFields_ne_none {w : Word} (h : decodeFields (fieldsOf w) ≠ none) :
    ∃ row ∈ opcodeMap, w &&& row.mask = row.pattern := by
  rw [ne_eq, decodeFields_eq_none_iff] at h
  push Not at h
  obtain ⟨hop, hrsv, hd⟩ := h
  obtain ⟨row, hrow, hrowOp, hmask⟩ := exists_row_of_op_lt _ hop
  refine ⟨row, hrow, (selected_iff_fields w hrow).mpr ⟨hrowOp.symm, hrsv, fun hfull => ?_⟩⟩
  by_contra hne
  obtain ⟨h0, h1, h2, h5⟩ := hd hne
  obtain h | h | h | h := hmask hfull <;> contradiction

/-- On the fields of a row, with a zero `D` where the mask covers it, the pseudocode answers the row's
command. -/
theorem decodeFields_row {row : OpcodeRow} (hrow : row ∈ opcodeMap) {d : Byte}
    (hd : row.mask = 0xFFFF → d = 0) :
    decodeFields ⟨(fieldsOf row.pattern).op, 0, d⟩ = some (row.command d) := by
  simp only [opcodeMap, List.mem_cons, List.not_mem_nil, or_false] at hrow
  obtain rfl | rfl | rfl | rfl | rfl | rfl | rfl := hrow
  · rw [hd rfl]; rfl
  · rw [hd rfl]; rfl
  · rw [hd rfl]; rfl
  · rfl
  · rfl
  · rw [hd rfl]; rfl
  · rfl

/-- On a word that a row selects, the pseudocode answers the row's command. -/
theorem decodeFields_of_selected {w : Word} {row : OpcodeRow} (hrow : row ∈ opcodeMap)
    (hw : w &&& row.mask = row.pattern) :
    decodeFields (fieldsOf w) = some (row.command (fieldsOf w).d) := by
  obtain ⟨hop, hrsv, hd⟩ := (selected_iff_fields w hrow).mp hw
  rw [← decodeFields_row hrow hd, ← hop, ← hrsv]

/-! ### The statement -/

/-- The decoder by masks and patterns is the pseudocode. -/
theorem decode_eq_decodeFields (w : Word) : decode w = decodeFields (fieldsOf w) := by
  rw [decode]
  cases hfind : opcodeMap.find? fun row => row.selects w with
  | none =>
    symm
    by_contra h
    obtain ⟨row, hrow, hw⟩ := exists_row_of_decodeFields_ne_none h
    exact List.find?_eq_none.mp hfind row hrow (decide_eq_true hw)
  | some row =>
    have hw : w &&& row.mask = row.pattern := by
      simpa [OpcodeRow.selects] using List.find?_some hfind
    rw [decodeFields_of_selected (List.mem_of_find?_eq_some hfind) hw]
    rfl

/-- Settles O7: the rows of the opcode map and the pseudocode are compared on the word's fields, and the
illegal words are those that the pseudocode refuses. -/
theorem decodeFollowsFieldPseudocode : Obligations.DecodeFollowsFieldPseudocode := by
  intro w
  refine ⟨decode_eq_decodeFields w, ?_, fun row hrow hw => ?_, fun hillegal s => ?_⟩
  · rw [decode_eq_decodeFields, decodeFields_eq_none_iff]
  · rw [decode_eq_decodeFields, decodeFields_of_selected hrow hw]; rfl
  · rw [commandWrite_of_illegal hillegal]; rfl

end Sys2Proof.Machine
end

section
/-! PROOF. The generation function (spec/41_table_generator.md R101, R102): each of its 8 shifts is
linear over exclusive-or, and so is `gen`. -/

namespace Sys2Proof.Machine

/-- A shift is a right shift and, where the bit shifted out was 1, the feedback of POLY. -/
theorem shiftStep_eq (v : Word) :
    shiftStep v = v >>> 1 ^^^ (if v.getLsbD 0 then Config.poly else 0#16) := by
  rw [shiftStep]
  split
  · rfl
  · exact BitVec.xor_zero.symm

/-- Feedback is linear in the bit shifted out: two feedbacks cancel. -/
theorem feedback_xor (p : Word) (x y : Bool) :
    (if x ^^ y then p else 0#16) = (if x then p else 0#16) ^^^ (if y then p else 0#16) := by
  cases x <;> cases y <;> simp

theorem shiftStep_xor (v w : Word) : shiftStep (v ^^^ w) = shiftStep v ^^^ shiftStep w := by
  simp only [shiftStep_eq, BitVec.getLsbD_xor, feedback_xor, BitVec.ushiftRight_xor_distrib]
  ac_rfl

theorem shiftSteps_xor (n : Nat) (v w : Word) :
    shiftSteps n (v ^^^ w) = shiftSteps n v ^^^ shiftSteps n w := by
  induction n generalizing v w with
  | zero => rfl
  | succ n ih => rw [shiftSteps, shiftStep_xor, ih]; rfl

theorem zext16_xor (a b : Byte) : zext16 (a ^^^ b) = zext16 a ^^^ zext16 b :=
  BitVec.setWidth_xor

/-- R101's final mask keeps all 16 bits. -/
theorem gen_eq_shiftSteps (i : Byte) : gen i = shiftSteps Config.shiftsPerEntry (zext16 i) :=
  BitVec.and_allOnes

theorem gen_xor (a b : Byte) : gen (a ^^^ b) = gen a ^^^ gen b := by
  simp only [gen_eq_shiftSteps, zext16_xor, shiftSteps_xor]

/-- Settles O31: linearity comes from that of one shift; the nine values are computed. -/
theorem genIsLinear : Obligations.GenIsLinear := by
  refine ⟨gen_xor, ?_⟩
  decide

end Sys2Proof.Machine
end

section
/-! PROOF. The table-generator commands (spec/41_table_generator.md R104 to R106): which words with their
opcodes are illegal, what each command answers, and what building the table leaves. -/

namespace Sys2Proof.Machine

/-! ### Words of an opcode -/

/-- R74's three conditions, on the decoder. -/
theorem decode_eq_none_iff (w : Word) :
    decode w = none ↔
      7 ≤ (fieldsOf w).op.toNat ∨ (fieldsOf w).rsv ≠ 0 ∨
        ((fieldsOf w).d ≠ 0 ∧
          ((fieldsOf w).op = 0 ∨ (fieldsOf w).op = 1 ∨ (fieldsOf w).op = 2 ∨ (fieldsOf w).op = 5)) := by
  rw [decode_eq_decodeFields, decodeFields_eq_none_iff]

theorem decode_eq_none_of_rsv_ne_zero {w : Word} (h : (fieldsOf w).rsv ≠ 0) : decode w = none :=
  (decode_eq_none_iff w).mpr (.inr (.inl h))

/-- An opcode without operand has one legal word: the one whose other fields are 0. -/
theorem decode_eq_none_of_ne_plain {w p : Word}
    (hop : (fieldsOf w).op = 0 ∨ (fieldsOf w).op = 1 ∨ (fieldsOf w).op = 2 ∨ (fieldsOf w).op = 5)
    (hp : fieldsOf p = { op := (fieldsOf w).op, rsv := 0, d := 0 }) (hw : w ≠ p) :
    decode w = none := by
  rw [decode_eq_none_iff]
  by_contra hlegal
  have hrsv : (fieldsOf w).rsv = 0 := by tauto
  have hd : (fieldsOf w).d = 0 := by tauto
  refine hw (fieldsOf_injective ?_)
  rw [hp, ← hrsv, ← hd]

theorem decode_tread_word (d : Byte) : decode (0x6000 ||| d.setWidth 16) = some (.tread d) := by
  rw [decode_eq_decodeFields, Laws.fieldsOf_or_operand _ _ (by decide)]; rfl

/-! ### What each command answers -/

theorem exec_tbuild (s : State) : exec .tbuild s = .next s.buildTable := rfl

theorem exec_tread_of_tvalid {s : State} (h : s.tvalid = true) (d : Byte) :
    exec (.tread d) s = .next (s.loadResult (s.tableEntry d)) :=
  if_neg (by simp [h])

theorem exec_tread_of_no_table {s : State} (h : s.tvalid = false) (d : Byte) :
    exec (.tread d) s = .next (s.setError .noTable) :=
  if_pos h

/-- Outside COMPUTE, a VEND under a set error bit reports FAIL. -/
theorem exec_vend_of_anyError {s : State} (hmode : s.mode ≠ .compute) (herr : s.anyError = true) :
    exec .vend s = .next (s.setVerdict .fail) := by
  have hverdict : s.verdict = .fail := if_pos herr
  rw [← hverdict]
  exact if_neg hmode

/-- TREAD after TBUILD is accepted, and reads the generated entry. -/
theorem exec_tread_buildTable (s : State) (d : Byte) :
    exec (.tread d) s.buildTable = .next (s.buildTable.loadResult (gen d)) := by
  rw [exec_tread_of_tvalid s.buildTable_tvalid, State.buildTable_tableEntry]

/-! ### Building the table -/

/-- The generated table is the only canonical one with its entries, so building it again keeps it. -/
theorem Table.build_eq_self {t : Table} (ht : t.wf = true)
    (hbuilt : ∀ k : Byte, t.entry? k.toNat = some (gen k)) : t.build = t := by
  have hwf : t.build.wf = true := t.wf_build ht
  refine Table.ext_of_wf _ _ hwf ht fun i => ?_
  rcases Nat.lt_or_ge i Config.tableEntries with hi | hi
  · obtain ⟨k, rfl⟩ : ∃ k : Byte, k.toNat = i := ⟨BitVec.ofNat 8 i, Nat.mod_eq_of_lt hi⟩
    rw [Table.entry?_build, hbuilt]
  · rw [Table.entry?_ge_eq_none _ hwf hi, Table.entry?_ge_eq_none _ ht hi]

theorem State.buildTable_buildTable {s : State} (h : s.table.wf = true) :
    s.buildTable.buildTable = s.buildTable := by
  have htable : s.table.build.build = s.table.build :=
    Table.build_eq_self (s.table.wf_build h) s.table.entry?_build
  simp only [State.buildTable, htable]

/-- A valid table of a block that meets the invariant is the generated one. -/
theorem Invariant.tableEntry_eq_gen {s : State} (hs : Invariant s) (hv : s.tvalid = true) (k : Byte) :
    s.tableEntry k = gen k := by
  rw [State.tableEntry, hs.built hv, Option.getD_some]

/-- A command leaves TABLE alone or builds it. -/
theorem exec_next_table {i : Instr} {s t : State} (h : exec i s = .next t) :
    t.table = s.table ∨ t.table = s.table.build := by
  obtain ⟨_, rfl⟩ | ⟨_, _, rfl⟩ | ⟨_, _, rfl⟩ | ⟨_, rfl⟩ | ⟨_, rfl⟩ | ⟨d, _, _, _, rfl⟩ |
    ⟨d, _, _, _, rfl⟩ | ⟨_, _, rfl⟩ | ⟨d, _, _, rfl⟩ := exec_next h
  case inr.inr.inr.inl => exact .inr rfl
  all_goals exact .inl (by simp)

/-! ### The statements -/

/-- Settles O18: the state after TBUILD is `s.buildTable`, whose entries Laws/Table.lean gives; the
other words with OP = 1 have a field that R74 forbids; and a later VEND sees the error bit kept. -/
theorem tbuildWritesGeneratedTable : Obligations.TbuildWritesGeneratedTable := by
  refine ⟨fun s => ⟨s.buildTable, exec_tbuild s, ?_, rfl, s.buildTable_tableEntry, ?_, ?_, ?_⟩, ?_⟩
  · exact commandWrite_of_decode (i := .tbuild) (by decide) s
  · intro w hop hw
    have hillegal : decode w = none :=
      decode_eq_none_of_ne_plain (p := 0x1000) (.inr (.inl hop)) (by rw [hop]; decide) hw
    exact commandWrite_of_illegal hillegal s
  · intro hs hv i
    rw [s.buildTable_tableEntry, hs.tableEntry_eq_gen hv]
  · intro herr hmode
    exact exec_vend_of_anyError hmode (by simp [State.anyError, herr])
  · exact ⟨_, _, exec_tbuild _, by decide, exec_tread_buildTable _ 1, by decide⟩

/-- Settles O19: the second TBUILD finds the generated table in its canonical form, and TBUILD alone
writes TABLE. -/
theorem secondTbuildChangesNothing : Obligations.SecondTbuildChangesNothing := by
  refine ⟨fun s t hwf ht => ?_, fun i s t ht k => ?_⟩
  · obtain rfl := execTbuild_next ht
    refine ⟨?_, s.table.entry?_build⟩
    rw [exec_tbuild, State.buildTable_buildTable hwf]
  · obtain htable | htable := exec_next_table ht
    · exact .inl (by rw [htable])
    · exact .inr (by rw [htable, Table.entry?_build])

/-- Settles O20: the word decodes to TREAD, whose two answers turn on TVALID, and after TBUILD the entry
read is the generated one. -/
theorem treadCopiesEntry : Obligations.TreadCopiesEntry := by
  refine ⟨fun s d => ⟨?_, ?_, ?_, ?_, ?_⟩, by decide⟩
  · exact commandWrite_of_decode (decode_tread_word d) s
  · intro hv
    exact exec_tread_of_tvalid hv d
  · intro hv
    exact exec_tread_of_no_table hv d
  · intro w _ hrsv
    exact commandWrite_of_illegal (decode_eq_none_of_rsv_ne_zero hrsv) s
  · intro t ht
    obtain rfl := execTbuild_next ht
    exact exec_tread_buildTable s d

end Sys2Proof.Machine
end

section
/-! PROOF. The checksum engine (spec/42_checksum.md R121 to R128): the table-driven step against the
bitwise one, the fold of a stream, and what CINIT and CBYTE answer. -/

namespace Sys2Proof.Machine

/-! ### Bytes of a word -/

theorem lowByte_eq_setWidth (v : Word) : lowByte v = v.setWidth 8 :=
  BitVec.setWidth_eq_extractLsb' (by decide) |>.symm

theorem lowByte_xor (v w : Word) : lowByte (v ^^^ w) = lowByte v ^^^ lowByte w :=
  BitVec.extractLsb'_xor

theorem lowByte_zext16 (b : Byte) : lowByte (zext16 b) = b := by
  rw [lowByte_eq_setWidth, zext16, BitVec.setWidth_setWidth_of_le _ (by decide), BitVec.setWidth_eq]

theorem lowByte_ushiftRight_eight (v : Word) : lowByte (v >>> 8) = highByte v := by
  ext k
  simp [lowByte, highByte]

theorem zext16_ushiftRight_eight (b : Byte) : zext16 b >>> 8 = 0#16 := by
  ext k
  simp [zext16]

/-- Widening the low byte of a word keeps its bits 7:0. -/
theorem getLsbD_zext16_lowByte (v : Word) {k : Nat} (hk : k < 8) :
    (zext16 (lowByte v)).getLsbD k = v.getLsbD k := by
  simp [zext16, lowByte, hk, Nat.lt_trans hk (show 8 < 16 by decide)]

/-! ### One step of the fold -/

/-- The index looked up is the low byte of the running value, exclusive-or the byte (R123). -/
theorem stepIndex_eq (c : Word) (b : Byte) : stepIndex c b = lowByte c ^^^ b := by
  have hmask (v : Word) : lowByte (v &&& 0xFF#16) = lowByte v := by
    rw [lowByte, BitVec.extractLsb'_and]
    exact BitVec.and_allOnes
  rw [stepIndex, hmask, lowByte_xor, lowByte_zext16]

/-- R123's final mask keeps all 16 bits. -/
theorem State.foldStep_eq (s : State) (c : Word) (b : Byte) :
    s.foldStep c b = s.tableEntry (lowByte c ^^^ b) ^^^ (c >>> 8) := by
  rw [State.foldStep, stepIndex_eq]
  exact BitVec.and_allOnes

theorem crcStep_eq (c : Word) (b : Byte) : crcStep c b = gen (lowByte c ^^^ b) ^^^ (c >>> 8) := by
  rw [crcStep, stepIndex_eq]
  exact BitVec.and_allOnes

/-- Over the built table the block's step is the step over `gen`. -/
theorem TableBuilt.foldStep_eq_crcStep {s : State} (hs : TableBuilt s) (c : Word) (b : Byte) :
    s.foldStep c b = crcStep c b := by
  rw [State.foldStep_eq, hs, crcStep_eq]

/-- The byte that equals the running value's low byte shifts it out. -/
theorem crcStep_lowByte (c : Word) : crcStep c (lowByte c) = c >>> 8 := by
  have hgen : gen 0#8 = 0#16 := by decide
  rw [crcStep_eq, BitVec.xor_self, hgen, BitVec.zero_xor]

/-! ### The bitwise step -/

/-- Shifts that drop only zeros feed nothing back. -/
theorem shiftSteps_of_low_bits_zero (n : Nat) (v : Word) (hv : ∀ k < n, v.getLsbD k = false) :
    shiftSteps n v = v >>> n := by
  induction n generalizing v with
  | zero => rfl
  | succ n ih =>
    have hshift : shiftStep v = v >>> 1 := by
      rw [shiftStep_eq, hv 0 (Nat.succ_pos n)]
      exact BitVec.xor_zero
    have hlow : ∀ k < n, (v >>> 1).getLsbD k = false := by
      intro k hk
      rw [BitVec.getLsbD_ushiftRight]
      exact hv (1 + k) (by omega)
    rw [shiftSteps, hshift, ih _ hlow, ← BitVec.shiftRight_add, Nat.add_comm]

/-- Eight shifts take the low byte of a word through `gen` and move the upper half down beside it: the
shifts are linear, and the word without its low byte is only moved. -/
theorem shiftSteps_eight (v : Word) : shiftSteps 8 v = gen (lowByte v) ^^^ (v >>> 8) := by
  have hupper : shiftSteps 8 (zext16 (lowByte v) ^^^ v) = v >>> 8 := by
    rw [shiftSteps_of_low_bits_zero, BitVec.ushiftRight_xor_distrib, zext16_ushiftRight_eight,
      BitVec.zero_xor]
    intro k hk
    rw [BitVec.getLsbD_xor, getLsbD_zext16_lowByte v hk, Bool.xor_self]
  calc shiftSteps 8 v
      = shiftSteps 8 (zext16 (lowByte v) ^^^ (zext16 (lowByte v) ^^^ v)) := by
        rw [← BitVec.xor_assoc, BitVec.xor_self, BitVec.zero_xor]
    _ = gen (lowByte v) ^^^ (v >>> 8) := by
        rw [shiftSteps_xor, hupper, gen_eq_shiftSteps, Config.shiftsPerEntry]

/-- Both steps are `gen` of the low byte of `c ^ b`, beside the upper half of `c` moved down. -/
theorem crcStep_eq_bitStep (c : Word) (b : Byte) : crcStep c b = bitStep c b := by
  rw [crcStep_eq, bitStep, Config.shiftsPerEntry, shiftSteps_eight, lowByte_xor, lowByte_zext16,
    BitVec.ushiftRight_xor_distrib, zext16_ushiftRight_eight, BitVec.xor_zero]

/-! ### What CINIT and CBYTE answer -/

theorem exec_cinit (s : State) : exec .cinit s = .next s.startStream := rfl

theorem State.startStream_status (s : State) :
    s.startStream.status = if s.tvalid = true then 0x0001 else 0x0000 := by
  cases hv : s.tvalid <;> simp [State.status, hv] <;> rfl

theorem decode_cbyte_word (d : Byte) : decode (0x3000 ||| d.setWidth 16) = some (.cbyte d) := by
  rw [decode_eq_decodeFields, Laws.fieldsOf_or_operand _ _ (by decide)]; rfl

theorem exec_cbyte_of_no_table {s : State} (h : s.tvalid = false) (d : Byte) :
    exec (.cbyte d) s = .next (s.setError .noTable) :=
  if_pos h

theorem exec_cbyte_in_verify {s : State} (hv : s.tvalid = true) (hmode : s.mode = .verify)
    (d : Byte) : exec (.cbyte d) s = .next (s.setError .mode) := by
  simp [exec, execCbyte, refuse, hv, hmode]

theorem exec_cbyte_accepted {s : State} (hv : s.tvalid = true) (hmode : s.mode ≠ .verify)
    (d : Byte) : exec (.cbyte d) s = .next (s.foldByte d) := by
  simp [exec, execCbyte, hv, hmode]

/-- A command other than CINIT keeps every error bit that is set (60_exceptions.md R206). -/
theorem exec_next_keeps_errors {i : Instr} {s t : State} (hi : i ≠ .cinit)
    (h : exec i s = .next t) :
    (s.errIll = true → t.errIll = true) ∧ (s.errNoTable = true → t.errNoTable = true) ∧
    (s.errMode = true → t.errMode = true) := by
  obtain ⟨_, rfl⟩ | ⟨_, _, rfl⟩ | ⟨_, _, rfl⟩ | ⟨_, rfl⟩ | ⟨hcinit, _⟩ | ⟨d, _, _, _, rfl⟩ |
    ⟨d, _, _, _, rfl⟩ | ⟨_, _, rfl⟩ | ⟨d, _, _, rfl⟩ := exec_next h
  case inr.inr.inr.inr.inl => exact absurd hcinit hi
  all_goals simp +contextual

/-! ### A checksum stream -/

theorem crc16_append (first second : List Byte) :
    crc16 (first ++ second) = second.foldl crcStep (crc16 first) :=
  List.foldl_append

theorem crc16_pair (a b : Byte) : crc16 [a, b] = crcStep (crcStep Config.init a) b := rfl

/-- CBYTEs outside VERIFY, over the built table, are all accepted and fold their bytes in order. -/
theorem execAll_cbytes (bytes : List Byte) {s : State} (hv : s.tvalid = true) (hs : TableBuilt s)
    (hmode : s.mode ≠ .verify) :
    execAll (bytes.map Instr.cbyte) s = .next
      { s with
        crc := bytes.foldl crcStep s.crc
        mode := if bytes = [] then s.mode else .compute
        vres := if bytes = [] then s.vres else .none } := by
  induction bytes generalizing s with
  | nil => rfl
  | cons b rest ih =>
    have hcompute : (s.foldByte b).mode ≠ .verify := by simp
    rw [List.map_cons, execAll_cons (exec_cbyte_accepted hv hmode b),
      ih (s := s.foldByte b) hv hs hcompute]
    simp [State.foldByte, hs.foldStep_eq_crcStep]

/-- The whole stream: CINIT makes it start from INIT, and leaves VRES at NONE. -/
theorem execAll_crc16Commands (bytes : List Byte) {s : State} (hv : s.tvalid = true)
    (hs : TableBuilt s) :
    execAll (crc16Commands bytes) s = .next
      { s.startStream with
        crc := crc16 bytes, mode := if bytes = [] then .idle else .compute } := by
  have hidle : s.startStream.mode ≠ .verify := by simp
  rw [crc16Commands, execAll_cons (exec_cinit s),
    execAll_cbytes (s := s.startStream) bytes hv hs hidle]
  simp [crc16]

/-! ### The statements -/

/-- Settles O33: over the built table the block's step is the step over `gen`, which is the bitwise one. -/
theorem stepEqualsBitwiseStep : Obligations.StepEqualsBitwiseStep := by
  intro c b
  refine ⟨crcStep_eq_bitStep c b, fun s hs => ?_⟩
  rw [hs.foldStep_eq_crcStep, crcStep_eq_bitStep]

/-- Settles O35: by induction over the bytes, none of the CBYTEs is refused and each folds its byte; two
bytes in both orders give two checksums. -/
theorem checksumStreamComputesCrc16 : Obligations.ChecksumStreamComputesCrc16 := by
  refine ⟨fun bytes s hv hs => ⟨execAll_crc16Commands bytes hv hs, rfl⟩, ?_⟩
  have hforward : crc16 [0x12, 0x34] = 0x213E := by
    rw [crc16_pair, show crcStep Config.init 0x12 = 0x3C14 by decide]; decide
  have hbackward : crc16 [0x34, 0x12] = 0x12E9 := by
    rw [crc16_pair, show crcStep Config.init 0x34 = 0x7820 by decide]; decide
  rw [hforward, hbackward]; decide

/-- Settles O21: the state after CINIT is `s.startStream`; the other words with OP = 2 have a field that
R74 forbids; and every other command keeps the error bits. -/
theorem cinitStartsStream : Obligations.CinitStartsStream := by
  refine ⟨fun s => ⟨s.startStream, exec_cinit s, ?_, rfl, rfl, s.startStream_status, ?_⟩, ?_⟩
  · exact commandWrite_of_decode (i := .cinit) (by decide) s
  · intro w hop hw
    have hillegal : decode w = none :=
      decode_eq_none_of_ne_plain (p := 0x2000) (.inr (.inr (.inl hop))) (by rw [hop]; decide) hw
    exact commandWrite_of_illegal hillegal s
  · exact fun i s t => exec_next_keeps_errors

/-- Settles O22: the word decodes to CBYTE, whose three answers turn on TVALID and MODE, and over the
built table the step is that over `gen`. -/
theorem cbyteFoldsByte : Obligations.CbyteFoldsByte := by
  intro s d
  refine ⟨?_, ?_, ?_, ?_, ?_, fun hs => ⟨?_, ?_, ?_⟩⟩
  · exact commandWrite_of_decode (decode_cbyte_word d) s
  · intro hv
    exact exec_cbyte_of_no_table hv d
  · intro hv hmode
    exact exec_cbyte_in_verify hv hmode d
  · intro hv hmode
    rw [exec_cbyte_accepted hv hmode, State.foldByte, State.foldStep_eq, lowByte_eq_setWidth]
  · intro w _ hrsv
    exact commandWrite_of_illegal (decode_eq_none_of_rsv_ne_zero hrsv) s
  · rw [hs.foldStep_eq_crcStep]; decide
  · intro c
    rw [hs.foldStep_eq_crcStep, ← lowByte_eq_setWidth, crcStep_lowByte]
  · intro hv
    exact ⟨_, execAll_crc16Commands [0x00] hv hs, show crc16 [0x00] = 0x0F87 by decide⟩

/-- Settles O36: the CRC's low byte shifts itself out, and then its high byte, now the low one, does. -/
theorem residueIsZero : Obligations.ResidueIsZero := by
  intro bytes
  generalize hc : crc16 bytes = c
  calc crc16 (bytes ++ [lowByte c, highByte c])
      = crcStep (crcStep c (lowByte c)) (highByte c) := by rw [crc16_append, hc]; rfl
    _ = (c >>> 8) >>> 8 := by
        rw [crcStep_lowByte, ← lowByte_ushiftRight_eight, crcStep_lowByte]
    _ = 0x0000 := by
        rw [← BitVec.shiftRight_add]; exact BitVec.ushiftRight_eq_zero (Nat.le_refl 16)

/-- Settles O34: an empty stream is a CINIT alone, and offset 1 shows CRC. -/
theorem emptyChecksumIsInit : Obligations.EmptyChecksumIsInit := by
  refine ⟨rfl, fun s => ⟨s.startStream, ?_, ?_⟩⟩
  · rw [crc16Commands, execAll_cons (exec_cinit s)]; rfl
  · rw [State.hostRead_eq]; rfl

end Sys2Proof.Machine
end

section
/-! PROOF. The residue of a frame (spec/41_table_generator.md R107, spec/43_verifier.md R148): the high
byte of a table entry determines its index, so the result of two steps of the fold determines their two
bytes. -/

namespace Sys2Proof.Machine

/-! ### Bytes of a word -/

theorem highByte_xor (v w : Word) : highByte (v ^^^ w) = highByte v ^^^ highByte w :=
  BitVec.extractLsb'_xor

theorem highByte_ushiftRight_eight (v : Word) : highByte (v >>> 8) = 0#8 := by
  ext k
  simp [highByte, BitVec.getLsbD_of_ge v (8 + (8 + k)) (by omega)]

/-- A word is its two bytes, of which a frame has the low one first (R59). -/
theorem eq_append_iff (v : Word) (low high : Byte) :
    v = high ++ low ↔ lowByte v = low ∧ highByte v = high := by
  constructor
  · rintro rfl
    exact ⟨BitVec.extractLsb'_append_eq_right, BitVec.extractLsb'_append_eq_left⟩
  · rintro ⟨rfl, rfl⟩
    ext i hi
    grind [highByte, lowByte]

/-! ### The high byte of an entry determines its index -/

/-- POLY has its top bit set, so a shift keeps there the bit it shifts out. -/
theorem getLsbD_shiftStep_top (v : Word) : (shiftStep v).getLsbD 15 = v.getLsbD 0 := by
  rw [shiftStep_eq, BitVec.getLsbD_xor, BitVec.getLsbD_ushiftRight,
    BitVec.getLsbD_of_ge v _ (by decide)]
  cases v.getLsbD 0 <;> decide

/-- If `n` shifts leave 0 in the top `n` bits, none of them fed POLY back: the bits shifted out were
0. -/
theorem low_bits_zero_of_shiftSteps {n : Nat} (hn : n ≤ 16) (v : Word)
    (htop : ∀ k < n, (shiftSteps n v).getLsbD (15 - k) = false) :
    ∀ k < n, v.getLsbD k = false := by
  induction n generalizing v with
  | zero => intro k hk; omega
  | succ n ih =>
    have hlow : ∀ k < n, (shiftStep v).getLsbD k = false :=
      ih (by omega) _ fun k hk => htop k (by omega)
    have hbit : v.getLsbD 0 = false := by
      have hlast := htop n (by omega)
      rwa [shiftSteps, shiftSteps_of_low_bits_zero n _ hlow, BitVec.getLsbD_ushiftRight,
        show n + (15 - n) = 15 by omega, getLsbD_shiftStep_top] at hlast
    rintro (_ | k) hk
    · exact hbit
    · have hshift : shiftStep v = v >>> 1 := by rw [shiftStep_eq, hbit]; exact BitVec.xor_zero
      have hnext := hlow k (by omega)
      rwa [hshift, BitVec.getLsbD_ushiftRight, Nat.add_comm] at hnext

theorem eq_zero_of_highByte_gen {i : Byte} (h : highByte (gen i) = 0#8) : i = 0#8 := by
  have htop : ∀ k < 8, (shiftSteps 8 (zext16 i)).getLsbD (15 - k) = false := by
    intro k hk
    have hbit : (highByte (gen i)).getLsbD (7 - k) = false := by rw [h]; exact BitVec.getLsbD_zero
    rw [gen_eq_shiftSteps, Config.shiftsPerEntry, highByte, BitVec.getLsbD_extractLsb'] at hbit
    simpa [show 7 - k < 8 by omega, show 8 + (7 - k) = 15 - k by omega] using hbit
  have hlow := low_bits_zero_of_shiftSteps (by decide) (zext16 i) htop
  ext k hk
  simpa [zext16, hk, Nat.lt_trans hk (show 8 < 16 by decide)] using hlow k hk

theorem highByte_gen_injective : Function.Injective fun i => highByte (gen i) := by
  intro i j h
  have hzero : highByte (gen (i ^^^ j)) = 0#8 := by
    rw [gen_xor, highByte_xor]
    exact BitVec.xor_eq_zero_iff.mpr h
  exact BitVec.xor_eq_zero_iff.mp (eq_zero_of_highByte_gen hzero)

/-! ### Two steps of the fold are a bijection -/

theorem highByte_crcStep (c : Word) (b : Byte) :
    highByte (crcStep c b) = highByte (gen (lowByte c ^^^ b)) := by
  rw [crcStep_eq, highByte_xor, highByte_ushiftRight_eight]
  exact BitVec.xor_zero

/-- The result of a step tells the index looked up and the high byte of the running value. -/
theorem bytes_of_crcStep_eq {c d : Word} {a b : Byte} (h : crcStep c a = crcStep d b) :
    lowByte c ^^^ a = lowByte d ^^^ b ∧ highByte c = highByte d := by
  have hindex : lowByte c ^^^ a = lowByte d ^^^ b :=
    highByte_gen_injective (by simpa only [highByte_crcStep] using congrArg highByte h)
  rw [crcStep_eq, crcStep_eq, hindex, BitVec.xor_right_inj] at h
  refine ⟨hindex, ?_⟩
  rw [← lowByte_ushiftRight_eight, h, lowByte_ushiftRight_eight]

theorem bytes_of_crcStep_twice_eq {c : Word} {a b a' b' : Byte}
    (h : crcStep (crcStep c a) b = crcStep (crcStep c a') b') : a = a' ∧ b = b' := by
  obtain ⟨hlow, hhigh⟩ := bytes_of_crcStep_eq h
  have ha : a = a' := by
    rw [highByte_crcStep, highByte_crcStep] at hhigh
    exact (BitVec.xor_right_inj _).mp (highByte_gen_injective hhigh)
  subst ha
  exact ⟨rfl, (BitVec.xor_right_inj _).mp hlow⟩

/-- There are as many pairs of bytes as 16-bit values. -/
theorem crcStep_twice_bijective (c : Word) :
    Function.Bijective fun p : Byte × Byte => crcStep (crcStep c p.1) p.2 := by
  have hcard (n : Nat) : Nat.card (BitVec n) = 2 ^ n := by
    rw [Nat.card_eq_fintype_card, ← FinEnum.card_eq_fintypeCard, FinEnum.card_bitVec]
  have hinjective : Function.Injective fun p : Byte × Byte => crcStep (crcStep c p.1) p.2 :=
    fun _ _ h => Prod.ext_iff.mpr (bytes_of_crcStep_twice_eq h)
  refine hinjective.bijective_of_nat_card_le ?_
  rw [Nat.card_prod, hcard, hcard, ← pow_add]

/-! ### Frames of two or more bytes -/

/-- A frame of two or more bytes has two last ones (R140). -/
theorem exists_eq_append_pair {frame : List Byte} (h : 2 ≤ frame.length) :
    ∃ (first : List Byte) (a b : Byte), frame = first ++ [a, b] := by
  obtain ⟨a, b, htrailer⟩ : ∃ a b, frameTrailer frame = [a, b] := by
    rw [← List.length_eq_two, frameTrailer, List.length_drop]; omega
  exact ⟨framePrefix frame, a, b, by rw [← htrailer]; exact (List.take_append_drop _ _).symm⟩

theorem framePrefix_append_pair (first : List Byte) (a b : Byte) :
    framePrefix (first ++ [a, b]) = first := by
  simp [framePrefix]

theorem frameTrailer_append_pair (first : List Byte) (a b : Byte) :
    frameTrailer (first ++ [a, b]) = [a, b] := by
  simp [frameTrailer]

/-- R140 on a frame taken apart: the two bytes, low byte first, are the CRC of the rest. -/
theorem verifyFrame_append_pair (first : List Byte) (a b : Byte) :
    verifyFrame (first ++ [a, b]) = true ↔ crc16 first = b ++ a := by
  rw [verifyFrame, framePrefix_append_pair, frameTrailer_append_pair, eq_append_iff,
    decide_eq_true_eq, crcBytes, eq_comm, List.cons_eq_cons, List.cons_eq_cons]
  simp only [and_true]

theorem crc16_append_pair (first : List Byte) (a b : Byte) :
    crc16 (first ++ [a, b]) = crcStep (crcStep (crc16 first) a) b := by
  rw [crc16_append]; rfl

/-- The two bytes of the CRC give 0 (R128), and no other pair does. -/
theorem crc16_append_pair_eq_zero_iff (first : List Byte) (a b : Byte) :
    crc16 (first ++ [a, b]) = 0x0000 ↔ crc16 first = b ++ a := by
  have hresidue : crc16 (first ++ [lowByte (crc16 first), highByte (crc16 first)]) = 0x0000 :=
    residueIsZero first
  rw [eq_append_iff]
  constructor
  · intro h
    rw [← h, crc16_append_pair, crc16_append_pair] at hresidue
    exact bytes_of_crcStep_twice_eq hresidue
  · rintro ⟨rfl, rfl⟩
    exact hresidue

/-- Settles O42: a frame's last two bytes give 0 exactly when they are the CRC of the rest, since two steps
of the fold are injective in their two bytes, and so bijective. -/
theorem verdictFromResidue : Obligations.VerdictFromResidue := by
  refine ⟨fun frame hlen => ?_, crcStep_twice_bijective⟩
  obtain ⟨first, a, b, rfl⟩ := exists_eq_append_pair hlen
  rw [verifyFrame_append_pair, crc16_append_pair_eq_zero_iff]

end Sys2Proof.Machine
end

section
/-! PROOF. The verifier (spec/43_verifier.md R141 to R147): what VBYTE and VEND answer, the registers of
a verification stream after the bytes it has taken, and the verdict of a frame. -/

namespace Sys2Proof.Machine

/-! ### What VBYTE and VEND answer -/

theorem decode_vbyte_word (d : Byte) : decode (0x4000 ||| d.setWidth 16) = some (.vbyte d) := by
  rw [decode_eq_decodeFields, Laws.fieldsOf_or_operand _ _ (by decide)]; rfl

theorem exec_vbyte_of_no_table {s : State} (h : s.tvalid = false) (d : Byte) :
    exec (.vbyte d) s = .next (s.setError .noTable) :=
  if_pos h

theorem exec_vbyte_in_compute {s : State} (hv : s.tvalid = true) (hmode : s.mode = .compute)
    (d : Byte) : exec (.vbyte d) s = .next (s.setError .mode) := by
  simp [exec, execVbyte, refuse, hv, hmode]

theorem exec_vbyte_accepted {s : State} (hv : s.tvalid = true) (hmode : s.mode ≠ .compute)
    (d : Byte) : exec (.vbyte d) s = .next (s.shiftIn d) := by
  simp [exec, execVbyte, hv, hmode]

/-- VBYTEs after a CINIT are all accepted, whatever TABLE holds. -/
theorem execAll_cinit_vbytes (bytes : List Byte) {s : State} (hv : s.tvalid = true) :
    execAll (.cinit :: bytes.map Instr.vbyte) s =
      .next (bytes.foldl (fun t b => t.shiftIn b) s.startStream) := by
  have hvbytes : ∀ t : State, t.tvalid = true → t.mode ≠ .compute →
      execAll (bytes.map Instr.vbyte) t = .next (bytes.foldl (fun t b => t.shiftIn b) t) := by
    induction bytes with
    | nil => exact fun _ _ _ => rfl
    | cons b rest ih =>
      intro t ht hmode
      rw [List.map_cons, execAll_cons (exec_vbyte_accepted ht hmode b)]
      exact ih _ ht (by simp)
  rw [execAll_cons (exec_cinit s)]
  exact hvbytes _ hv (by simp)

theorem exec_vend_in_compute {s : State} (hmode : s.mode = .compute) :
    exec .vend s = .next (s.setError .mode) :=
  if_pos hmode

theorem exec_vend_accepted {s : State} (hmode : s.mode ≠ .compute) :
    exec .vend s = .next (s.setVerdict s.verdict) :=
  if_neg hmode

theorem State.anyError_eq_true_iff (s : State) :
    s.anyError = true ↔ s.errIll = true ∨ s.errNoTable = true ∨ s.errMode = true := by
  simp [State.anyError, or_assoc]

theorem State.setError_anyError (e : ErrorBit) (s : State) : (s.setError e).anyError = true := by
  cases e <;> simp [State.anyError]

/-! ### The state of a verification stream -/

/-- The registers that a verification stream works on (R143). -/
structure StreamRegisters where
  crc : Word
  hold0 : Byte
  hold1 : Byte
  vcnt : Fin 3
  mode : Mode

def State.streamRegisters (s : State) : StreamRegisters :=
  { crc := s.crc, hold0 := s.hold0, hold1 := s.hold1, vcnt := s.vcnt, mode := s.mode }

theorem State.streamRegisters_eq_iff {s : State} {r : StreamRegisters} :
    s.streamRegisters = r ↔
      s.crc = r.crc ∧ s.hold0 = r.hold0 ∧ s.hold1 = r.hold1 ∧ s.vcnt = r.vcnt ∧
      s.mode = r.mode := by
  cases r
  simp only [State.streamRegisters, StreamRegisters.mk.injEq]

/-- The shift of R141, with the step over `gen`. -/
def StreamRegisters.shiftIn (b : Byte) (r : StreamRegisters) : StreamRegisters :=
  { crc := if r.vcnt = 2 then crcStep r.crc r.hold0 else r.crc
    hold0 := r.hold1, hold1 := b, vcnt := vcntNext r.vcnt, mode := .verify }

/-- The verdict of R142 where no error bit is set. -/
def StreamRegisters.verdict (r : StreamRegisters) : Verdict :=
  if r.vcnt ≠ 2 then .short else if r.crc = r.hold1 ++ r.hold0 then .pass else .fail

theorem StreamRegisters.verdict_of_short {r : StreamRegisters} (hcount : r.vcnt ≠ 2) :
    r.verdict = .short :=
  if_pos hcount

theorem StreamRegisters.verdict_of_match {r : StreamRegisters} (hcount : r.vcnt = 2)
    (hcrc : r.crc = r.hold1 ++ r.hold0) : r.verdict = .pass := by
  rw [StreamRegisters.verdict, if_neg (not_not.mpr hcount), if_pos hcrc]

theorem StreamRegisters.verdict_of_mismatch {r : StreamRegisters} (hcount : r.vcnt = 2)
    (hcrc : r.crc ≠ r.hold1 ++ r.hold0) : r.verdict = .fail := by
  rw [StreamRegisters.verdict, if_neg (not_not.mpr hcount), if_neg hcrc]

theorem val_eq_vcntMax_iff (n : Fin 3) : n.val = Config.vcntMax ↔ n = 2 := by
  decide +revert

theorem val_lt_vcntMax_iff (n : Fin 3) : n.val < Config.vcntMax ↔ n ≠ 2 := by
  decide +revert

theorem vcntNext_eq (n : Fin 3) : vcntNext n = if n = 0 then 1 else 2 := by
  decide +revert

theorem State.shiftIn_streamRegisters {s : State} (hs : TableBuilt s) (b : Byte) :
    (s.shiftIn b).streamRegisters = s.streamRegisters.shiftIn b := by
  rw [State.streamRegisters, State.shiftIn_crc, hs.foldStep_eq_crcStep,
    if_congr (val_eq_vcntMax_iff _) rfl rfl]
  rfl

theorem State.verdict_eq_of_no_error {s : State} (h : s.anyError = false) :
    s.verdict = s.streamRegisters.verdict := by
  rw [State.verdict, if_neg (Bool.eq_false_iff.mp h)]
  exact if_congr (val_lt_vcntMax_iff _) rfl (if_congr (eq_append_iff ..).symm rfl rfl)

@[simp] theorem State.buildTable_streamRegisters (s : State) :
    s.buildTable.streamRegisters = s.streamRegisters := rfl
@[simp] theorem State.loadResult_streamRegisters (v : Word) (s : State) :
    (s.loadResult v).streamRegisters = s.streamRegisters := rfl
@[simp] theorem State.setVerdict_streamRegisters (v : Verdict) (s : State) :
    (s.setVerdict v).streamRegisters = s.streamRegisters := rfl

/-- R143, row by row: the registers after the VBYTEs of a frame. -/
inductive AfterFrame : List Byte → StreamRegisters → Prop
  | empty :
    AfterFrame [] { crc := Config.init, hold0 := 0, hold1 := 0, vcnt := 0, mode := .idle }
  | single (b : Byte) :
    AfterFrame [b] { crc := Config.init, hold0 := 0, hold1 := b, vcnt := 1, mode := .verify }
  | append (first : List Byte) (a b : Byte) :
    AfterFrame (first ++ [a, b])
      { crc := crc16 first, hold0 := a, hold1 := b, vcnt := 2, mode := .verify }

theorem AfterFrame.mode_ne_compute {frame : List Byte} {r : StreamRegisters}
    (h : AfterFrame frame r) : r.mode ≠ .compute := by
  cases h <;> simp

/-- Once two bytes are held, the byte folded is the third from the end. -/
theorem AfterFrame.shiftIn {frame : List Byte} {r : StreamRegisters} (h : AfterFrame frame r)
    (d : Byte) : AfterFrame (frame ++ [d]) (r.shiftIn d) := by
  cases h with
  | empty => exact .single d
  | single b => exact .append [] b d
  | append first a b =>
    have hrow := AfterFrame.append (first ++ [a]) b d
    rw [crc16_append, List.append_assoc] at hrow
    rw [List.append_assoc]
    exact hrow

/-- A verification stream that has taken a frame's bytes, over the built table. -/
structure VerifyStream (frame : List Byte) (s : State) : Prop where
  tvalid : s.tvalid = true
  built : TableBuilt s
  registers : AfterFrame frame s.streamRegisters

theorem VerifyStream.mode_ne_compute {frame : List Byte} {s : State} (h : VerifyStream frame s) :
    s.mode ≠ .compute :=
  h.registers.mode_ne_compute

/-- A command of R143's list is accepted, sets no error bit, and appends the byte it takes, if
any. -/
theorem VerifyStream.after_command {frame : List Byte} {s : State} (h : VerifyStream frame s)
    {i : Instr} (hi : keepsVerifyStream i = true) :
    ∃ t : State, exec i s = .next t ∧ t.anyError = s.anyError ∧
      VerifyStream (frame ++ [i].filterMap vbyteOf) t := by
  cases i with
  | nop => exact ⟨s, rfl, rfl, by simpa [List.filterMap_cons, vbyteOf] using h⟩
  | tbuild =>
    refine ⟨_, exec_tbuild s, rfl, rfl, s.buildTable_tableEntry, ?_⟩
    simpa [List.filterMap_cons, vbyteOf] using h.registers
  | cinit => cases hi
  | cbyte d => cases hi
  | vbyte d =>
    exact ⟨_, exec_vbyte_accepted h.tvalid h.mode_ne_compute d, rfl, h.tvalid, h.built,
      State.shiftIn_streamRegisters h.built d ▸ h.registers.shiftIn d⟩
  | vend =>
    refine ⟨_, exec_vend_accepted h.mode_ne_compute, rfl, h.tvalid, h.built, ?_⟩
    simpa [List.filterMap_cons, vbyteOf] using h.registers
  | tread d =>
    refine ⟨_, exec_tread_of_tvalid h.tvalid d, rfl, h.tvalid, h.built, ?_⟩
    simpa [List.filterMap_cons, vbyteOf] using h.registers

/-- R143: so does a sequence of them, with the bytes its VBYTEs take. -/
theorem VerifyStream.after_commands {frame : List Byte} {s : State} (h : VerifyStream frame s)
    {commands : List Instr} (hkeep : ∀ i ∈ commands, keepsVerifyStream i = true) :
    ∃ t : State, execAll commands s = .next t ∧ t.anyError = s.anyError ∧
      VerifyStream (frame ++ commands.filterMap vbyteOf) t := by
  induction commands generalizing frame s with
  | nil => exact ⟨s, rfl, rfl, by simpa using h⟩
  | cons i rest ih =>
    obtain ⟨hi, hrest⟩ := List.forall_mem_cons.mp hkeep
    obtain ⟨t, ht, hterr, htstream⟩ := h.after_command hi
    obtain ⟨u, hu, huerr, hustream⟩ := ih htstream hrest
    refine ⟨u, by rw [execAll_cons ht, hu], huerr.trans hterr, ?_⟩
    rwa [List.append_assoc, ← List.filterMap_append] at hustream

/-! ### The verdict of a frame -/

theorem frameVerdict_append_pair (first : List Byte) (a b : Byte) :
    frameVerdict (first ++ [a, b]) = if crc16 first = b ++ a then .pass else .fail := by
  have hlen : ¬ (first ++ [a, b]).length < 2 := by simp
  simp only [frameVerdict, hlen, verifyFrame_append_pair, if_false]

/-- The CRC of no bytes is 0xFFFF (R126), so one two-byte frame passes (R147). -/
theorem frameVerdict_pair (a b : Byte) :
    frameVerdict [a, b] = if a = 0xFF ∧ b = 0xFF then .pass else .fail := by
  have hinit : crc16 [] = b ++ a ↔ a = 0xFF ∧ b = 0xFF := by
    rw [eq_append_iff, show lowByte (crc16 []) = 0xFF by decide,
      show highByte (crc16 []) = 0xFF by decide, eq_comm, @eq_comm _ _ b]
  exact (frameVerdict_append_pair [] a b).trans (if_congr hinit rfl rfl)

/-- R142's example frame without its last two bytes, and its CRC (95_test_vectors.md C9). -/
def exampleFrame : List Byte := [0x00, 0x00, 0x00, 0x05, 0x01, 0x00, 0xDD, 0x00, 0x00]

theorem crc16_exampleFrame : crc16 exampleFrame = 0x21AB := by decide +kernel

theorem frameVerdict_example : frameVerdict (exampleFrame ++ [0xAB, 0x21]) = .pass := by
  rw [frameVerdict_append_pair, crc16_exampleFrame]; rfl

theorem AfterFrame.verdict {frame : List Byte} {r : StreamRegisters} (h : AfterFrame frame r) :
    r.verdict = frameVerdict frame := by
  cases h with
  | empty => rfl
  | single b => rfl
  | append first a b => rw [frameVerdict_append_pair]; rfl

/-- R144: VERIFY over the built table reports the verdict of the frame. -/
theorem execAll_verifyCommands (frame : List Byte) {s : State} (hv : s.tvalid = true)
    (hs : TableBuilt s) :
    ∃ t : State, execAll (verifyCommands frame) s = .next t ∧ t.vres = frameVerdict frame := by
  have hstart : VerifyStream [] s.startStream := ⟨hv, hs, .empty⟩
  have hkeep : ∀ i ∈ frame.map Instr.vbyte, keepsVerifyStream i = true := by
    simp [keepsVerifyStream]
  obtain ⟨t, ht, herr, hstream⟩ := hstart.after_commands hkeep
  have hbytes : (frame.map Instr.vbyte).filterMap vbyteOf = frame := by
    rw [List.filterMap_map]; exact List.filterMap_some
  rw [List.nil_append, hbytes] at hstream
  refine ⟨t.setVerdict t.verdict, ?_, ?_⟩
  · rw [verifyCommands, execAll_cons (exec_cinit s), execAll_append ht,
      execAll_cons (exec_vend_accepted hstream.mode_ne_compute), execAll_nil]
  · exact (State.verdict_eq_of_no_error herr).trans hstream.registers.verdict

/-! ### The statements -/

/-- Settles O37: the registers after the VBYTEs of a frame are a row of `AfterFrame`, which every
command of the list keeps or extends. -/
theorem verifyStreamState : Obligations.VerifyStreamState := by
  intro commands s hkeep hv hs hcrc hhold0 hhold1 hvcnt hmode
  have hstart : VerifyStream [] s := by
    have hinitial : s.streamRegisters =
        { crc := Config.init, hold0 := 0, hold1 := 0, vcnt := 0, mode := .idle } :=
      State.streamRegisters_eq_iff.mpr ⟨hcrc, hhold0, hhold1, hvcnt, hmode⟩
    exact ⟨hv, hs, hinitial ▸ .empty⟩
  obtain ⟨t, ht, _, hstream⟩ := hstart.after_commands hkeep
  refine ⟨t, ht, fun frame hframe => ?_⟩
  have hrow : AfterFrame frame t.streamRegisters := hframe ▸ hstream.registers
  generalize hr : t.streamRegisters = r at hrow
  obtain ⟨hcrc, hhold0, hhold1, hvcnt, hmode⟩ := State.streamRegisters_eq_iff.mp hr
  cases hrow with
  | empty => exact ⟨fun _ => ⟨hcrc, hhold0, hhold1, hvcnt, hmode⟩, nofun, nofun⟩
  | single b =>
    have hheld : [t.hold1] = [b] := by rw [hhold1]
    exact ⟨nofun, fun _ => ⟨hcrc, hhold0, hheld, hvcnt, hmode⟩, nofun⟩
  | append first a b =>
    have hlen : (first ++ [a, b]).length = first.length + 2 := List.length_append
    have hfolded : t.crc = crc16 (framePrefix (first ++ [a, b])) := by
      rw [hcrc, framePrefix_append_pair]
    have hheld : [t.hold0, t.hold1] = frameTrailer (first ++ [a, b]) := by
      rw [hhold0, hhold1, frameTrailer_append_pair]
    exact ⟨fun h => by omega, fun h => by omega, fun _ => ⟨hfolded, hheld, hvcnt, hmode⟩⟩

/-- Settles O38: VEND reports `frameVerdict`, whose three branches are the rule's. -/
theorem verifyVerdictOfFrame : Obligations.VerifyVerdictOfFrame := by
  intro frame s hv hs
  obtain ⟨t, ht, hvres⟩ := execAll_verifyCommands frame hv hs
  refine ⟨t, ht, fun hlen => ?_, fun hlen hpass => ?_, fun hlen hfail => ?_⟩
  · rw [hvres, frameVerdict, if_pos hlen]
  · rw [hvres, frameVerdict, if_neg (Nat.not_lt.mpr hlen), if_pos hpass]
  · rw [hvres, frameVerdict, if_neg (Nat.not_lt.mpr hlen), if_neg (Bool.eq_false_iff.mp hfail)]

/-- Settles O39: the CRC that VEND compares with the two appended bytes is their own word. -/
theorem roundTripPasses : Obligations.RoundTripPasses := by
  intro bytes s hv hs
  obtain ⟨t, ht, hvres⟩ := execAll_verifyCommands
    (bytes ++ [lowByte (crc16 bytes), highByte (crc16 bytes)]) hv hs
  refine ⟨t, ht, ?_⟩
  rw [hvres, frameVerdict_append_pair, if_pos ((eq_append_iff ..).mpr ⟨rfl, rfl⟩)]

/-- Settles O41: with nothing before the two bytes, they are compared with INIT. -/
theorem twoByteFrames : Obligations.TwoByteFrames := by
  intro a b s hv hs
  obtain ⟨t, ht, hvres⟩ := execAll_verifyCommands [a, b] hv hs
  exact ⟨t, ht, hvres.trans (frameVerdict_pair a b)⟩

/-- Settles O23: the three answers of VBYTE turn on TVALID and MODE; a refused one leaves an error bit
for VEND to see; and the VBYTEs after a CINIT shift the delay line one after another. -/
theorem vbyteShiftsDelayLine : Obligations.VbyteShiftsDelayLine := by
  intro s d
  refine ⟨?_, ?_, ?_, ?_, ?_, ?_, fun hv a b => ⟨?_, ?_⟩, fun hv hs => ?_⟩
  · exact commandWrite_of_decode (decode_vbyte_word d) s
  · intro hv
    exact exec_vbyte_of_no_table hv d
  · intro hv hmode
    exact exec_vbyte_in_compute hv hmode d
  · intro hv hmode
    rw [exec_vbyte_accepted hv hmode, State.shiftIn, State.foldStep_eq, lowByte_eq_setWidth,
      vcntNext_eq, if_congr (val_eq_vcntMax_iff _) rfl rfl]
  · intro t hrefused ht hmode
    obtain ⟨_, rfl⟩ | ⟨_, _, rfl⟩ | ⟨hv, hnot, _⟩ := execVbyte_next ht
    · exact exec_vend_of_anyError hmode (State.setError_anyError ..)
    · exact exec_vend_of_anyError hmode (State.setError_anyError ..)
    · simp [hv, hnot] at hrefused
  · intro w _ hrsv
    exact commandWrite_of_illegal (decode_eq_none_of_rsv_ne_zero hrsv) s
  · exact ⟨_, execAll_cinit_vbytes [a] hv, rfl⟩
  · exact ⟨_, execAll_cinit_vbytes [a, b] hv, rfl⟩
  · have hstep : s.foldStep 0xFFFF 0x12 = crcStep Config.init 0x12 := hs.foldStep_eq_crcStep ..
    refine ⟨_, execAll_cinit_vbytes [0x12, 0x34, 0x56] hv, rfl, rfl, rfl, rfl, hstep, ?_⟩
    exact hstep.trans (by decide)

/-- Settles O24: VEND is refused in COMPUTE and otherwise writes the verdict, which reads nothing that
VEND writes; the example frames have the verdicts of R144. -/
theorem vendReportsVerdict : Obligations.VendReportsVerdict := by
  intro s
  refine ⟨?_, fun hmode => ?_, fun hmode => ⟨fun herr => ?_, fun hill hnotab herrmode => ?_⟩,
    ?_, ?_, fun hv hs => ⟨?_, fun a b => ?_⟩⟩
  · exact commandWrite_of_decode (i := .vend) (by decide) s
  · exact exec_vend_in_compute hmode
  · exact exec_vend_of_anyError hmode ((State.anyError_eq_true_iff s).mpr herr)
  · have herr : s.anyError = false := by simp [State.anyError, hill, hnotab, herrmode]
    rw [exec_vend_accepted hmode, State.verdict_eq_of_no_error herr]
    refine ⟨fun hcount => ?_, fun hcount hmatch => ?_, fun hcount hne => ?_⟩
    · rw [StreamRegisters.verdict_of_short hcount]; rfl
    · rw [StreamRegisters.verdict_of_match hcount hmatch]; rfl
    · rw [StreamRegisters.verdict_of_mismatch hcount hne]; rfl
  · intro t u ht hu
    obtain ⟨hmode, rfl⟩ | ⟨_, rfl⟩ := execVend_next ht
    · obtain ⟨_, rfl⟩ | ⟨hnot, _⟩ := execVend_next hu
      · exact State.setError_vres ..
      · exact absurd (by simpa using hmode) hnot
    · obtain ⟨_, rfl⟩ | ⟨_, rfl⟩ := execVend_next hu
      · exact State.setError_vres ..
      · rfl
  · intro w hop hw
    have hillegal : decode w = none :=
      decode_eq_none_of_ne_plain (p := 0x5000) (.inr (.inr (.inr hop))) (by rw [hop]; decide) hw
    exact commandWrite_of_illegal hillegal s
  · obtain ⟨t, ht, hvres⟩ := execAll_verifyCommands (exampleFrame ++ [0xAB, 0x21]) hv hs
    exact ⟨t, ht, hvres.trans frameVerdict_example⟩
  · obtain ⟨t, ht, hvres⟩ := execAll_verifyCommands [a, b] hv hs
    refine ⟨t, ht, ?_⟩
    rw [hvres, frameVerdict_pair]
    exact ite_eq_left_iff.trans (by simp)

end Sys2Proof.Machine
end

section
/-! PROOF. The control command (spec/44_control.md R160): NOP leaves the state alone wherever it
stands in a sequence, and the verdict of a stream without bytes is SHORT. -/

namespace Sys2Proof.Machine

theorem exec_nop (s : State) : exec .nop s = .next s := rfl

/-- A NOP at the head of a sequence can be dropped. -/
theorem execAll_nop_cons (rest : List Instr) (s : State) :
    execAll (.nop :: rest) s = execAll rest s :=
  execAll_cons (exec_nop s) rest

/-- A VEND right after CINIT finds no error bit and no byte (43_verifier.md R142). -/
theorem State.startStream_verdict (s : State) : s.startStream.verdict = .short := by
  have herr : s.startStream.anyError = false := by simp [State.anyError]
  have hcount : s.startStream.streamRegisters.vcnt ≠ 2 := by simp [State.streamRegisters]
  rw [State.verdict_eq_of_no_error herr, StreamRegisters.verdict_of_short hcount]

/-- `CINIT; VEND` is accepted in every state, whether the table is built or not. -/
theorem execAll_cinit_vend (s : State) :
    execAll [.cinit, .vend] s = .next (s.startStream.setVerdict .short) := by
  have hmode : s.startStream.mode ≠ .compute := by simp
  rw [execAll_cons (exec_cinit s), execAll_cons (exec_vend_accepted hmode), execAll_nil,
    State.startStream_verdict]

/-- Settles O17: the word 0x0000 decodes to NOP; the other words with OP = 0 have a field that R74
forbids; and `CINIT; NOP; VEND` is `CINIT; VEND` once the NOP is dropped. -/
theorem nopDoesNothing : Obligations.NopDoesNothing := by
  intro s
  refine ⟨exec_nop s, ?_, ?_, s.startStream.setVerdict .short, ?_, execAll_cinit_vend s, rfl⟩
  · rw [commandWrite_of_decode (i := .nop) (by decide), exec_nop]
  · intro w hop hw
    have hillegal : decode w = none :=
      decode_eq_none_of_ne_plain (p := 0x0000) (.inl hop) (by rw [hop]; decide) hw
    exact commandWrite_of_illegal hillegal s
  · calc execAll [.cinit, .nop, .vend] s
        = execAll [.nop, .vend] s.startStream := execAll_cons (exec_cinit s) _
      _ = execAll [.vend] s.startStream := execAll_nop_cons _ _
      _ = execAll [.cinit, .vend] s := (execAll_cons (exec_cinit s) _).symm
      _ = .next (s.startStream.setVerdict .short) := execAll_cinit_vend s

end Sys2Proof.Machine
end

section
/-! PROOF. Refusals (spec/60_exceptions.md R202, R203, R206): what a command answers under each cause of
refusal and under none, and which steps can clear an error bit. -/

namespace Sys2Proof.Machine

/-! ### Comparing the error bits of two states -/

/-- Every error bit that is set in `s` is set in `t`. -/
def ErrorsWithin (s t : State) : Prop :=
  (s.errIll = true → t.errIll = true) ∧ (s.errNoTable = true → t.errNoTable = true) ∧
  (s.errMode = true → t.errMode = true)

theorem errorsWithin_of_eq {s t : State} (hill : t.errIll = s.errIll)
    (hnoTable : t.errNoTable = s.errNoTable) (hmode : t.errMode = s.errMode) : ErrorsWithin s t :=
  ⟨hill.trans, hnoTable.trans, hmode.trans⟩

/-- The error bits are sticky: setting one keeps those already set (R202). -/
theorem errorsWithin_setError (e : ErrorBit) (s : State) : ErrorsWithin s (s.setError e) := by
  simp +contextual [ErrorsWithin]

/-! ### The causes of refusal, in order -/

/-- In IDLE no command belongs to the other kind of stream. -/
theorem wrongStream_idle (i : Instr) : wrongStream i .idle = false := by
  cases i <;> rfl

/-- ERR_NOTABLE comes before ERR_MODE: MODE plays no part. -/
theorem exec_of_no_table {i : Instr} {s : State} (hreads : readsTable i = true)
    (hv : s.tvalid = false) : exec i s = .next (s.setError .noTable) := by
  cases i with
  | cbyte d => exact exec_cbyte_of_no_table hv d
  | vbyte d => exact exec_vbyte_of_no_table hv d
  | tread d => exact exec_tread_of_no_table hv d
  | nop | tbuild | cinit | vend => cases hreads

/-- ERR_MODE, once ERR_NOTABLE does not apply. -/
theorem exec_of_wrong_stream {i : Instr} {s : State} (hv : readsTable i = true → s.tvalid = true)
    (hwrong : wrongStream i s.mode = true) : exec i s = .next (s.setError .mode) := by
  cases i with
  | cbyte d => exact exec_cbyte_in_verify (hv rfl) (of_decide_eq_true hwrong) d
  | vbyte d => exact exec_vbyte_in_compute (hv rfl) (of_decide_eq_true hwrong) d
  | vend => exact exec_vend_in_compute (of_decide_eq_true hwrong)
  | nop | tbuild | cinit | tread d => cases hwrong

/-- Where no cause applies the command is accepted and sets no error bit. -/
theorem exec_accepted {i : Instr} {s : State} (hv : readsTable i = true → s.tvalid = true)
    (hright : wrongStream i s.mode = false) : ∃ t, exec i s = .next t ∧ ErrorsWithin t s := by
  cases i with
  | nop => exact ⟨s, exec_nop s, errorsWithin_of_eq rfl rfl rfl⟩
  | tbuild => exact ⟨_, exec_tbuild s, errorsWithin_of_eq rfl rfl rfl⟩
  | cinit => exact ⟨_, exec_cinit s, by simp [ErrorsWithin]⟩
  | cbyte d =>
    exact ⟨_, exec_cbyte_accepted (hv rfl) (of_decide_eq_false hright) d,
      errorsWithin_of_eq rfl rfl rfl⟩
  | vbyte d =>
    exact ⟨_, exec_vbyte_accepted (hv rfl) (of_decide_eq_false hright) d,
      errorsWithin_of_eq rfl rfl rfl⟩
  | vend =>
    exact ⟨_, exec_vend_accepted (of_decide_eq_false hright), errorsWithin_of_eq rfl rfl rfl⟩
  | tread d => exact ⟨_, exec_tread_of_tvalid (hv rfl) d, errorsWithin_of_eq rfl rfl rfl⟩

/-- A block that meets the invariant is in IDLE while the table is not built, so the two causes beside
ERR_ILL exclude each other. -/
theorem Invariant.wrongStream_eq_false {s : State} (hs : Invariant s) (hv : s.tvalid = false)
    (i : Instr) : wrongStream i s.mode = false := by
  have hidle : s.mode = .idle := by
    by_contra hmode
    exact Bool.false_ne_true (hv.symm.trans (hs.stream_needs_table hmode))
  rw [hidle, wrongStream_idle]

/-! ### What clears an error bit -/

/-- A decoded word is selected by the row of its command. -/
theorem exists_row_of_decode {w : Word} {i : Instr} (h : decode w = some i) :
    ∃ row ∈ opcodeMap, w &&& row.mask = row.pattern ∧ row.command (fieldsOf w).d = i := by
  obtain ⟨row, hfind, hcommand⟩ := Option.map_eq_some_iff.mp h
  have hselects := List.find?_some hfind
  exact ⟨row, List.mem_of_find?_eq_some hfind, of_decide_eq_true hselects, hcommand⟩

/-- CINIT has one word. -/
theorem eq_of_decode_cinit {w : Word} (h : decode w = some .cinit) : w = 0x2000 := by
  obtain ⟨row, hrow, hw, hcommand⟩ := exists_row_of_decode h
  obtain ⟨hmask, hpattern⟩ : row.mask = BitVec.allOnes 16 ∧ row.pattern = 0x2000 := by
    simp only [opcodeMap, List.mem_cons, List.not_mem_nil, or_false] at hrow
    obtain rfl | rfl | rfl | rfl | rfl | rfl | rfl := hrow
    case inr.inr.inl => exact ⟨rfl, rfl⟩
    all_goals cases hcommand
  rwa [hmask, hpattern, BitVec.and_allOnes] at hw

theorem commandWrite_keeps_errors {w : Word} {s t : State} (hw : w ≠ 0x2000)
    (h : commandWrite w s = .next t) : ErrorsWithin s t := by
  obtain ⟨_, rfl⟩ | ⟨i, hi, hexec⟩ := commandWrite_next h
  · exact errorsWithin_setError _ s
  · have hne : i ≠ .cinit := by
      rintro rfl
      exact hw (eq_of_decode_cinit hi)
    exact exec_next_keeps_errors hne hexec

theorem hostWrite_keeps_errors {off : Offset} {v : Word} {s t : State}
    (hcinit : off = 0 → v ≠ 0x2000) (h : hostWrite off v s = .next t) : ErrorsWithin s t := by
  obtain ⟨hcmd, hwrite⟩ | ⟨_, rfl⟩ := hostWrite_next h
  · exact commandWrite_keeps_errors (hcinit ((registerAt_eq_cmd_iff off).mp hcmd)) hwrite
  · exact errorsWithin_of_eq rfl rfl rfl

/-- A step that is no reset and no CINIT keeps every error bit that is set. -/
theorem step_keeps_errors {s t : State} (h : step s = .next t)
    (hreset : s.pending.head? ≠ some .reset)
    (hcinit : ∀ rd : Bool, s.pending.head? ≠
      some (.request { addr := 0, wr := true, rd := rd, wdata := 0x2000 })) : ErrorsWithin s t := by
  obtain ⟨_, rfl⟩ | ⟨rest, hp, _⟩ | ⟨⟨off, wr, rd, v⟩, rest, hp, hrequest⟩ := step_next h
  · exact errorsWithin_of_eq rfl rfl rfl
  · exact absurd (congrArg List.head? hp) hreset
  · obtain ⟨hwr, hwrite⟩ | ⟨_, _, rfl⟩ | ⟨_, _, rfl⟩ := hrequest
    · have hword : off = 0 → v ≠ 0x2000 := by
        rintro rfl rfl
        obtain rfl : wr = true := hwr
        exact hcinit rd (congrArg List.head? hp)
      exact hostWrite_keeps_errors (s := (s.withPending rest).respond .done) hword hwrite
    · exact errorsWithin_of_eq rfl rfl rfl
    · exact errorsWithin_of_eq rfl rfl rfl

theorem step_of_reset {s : State} {rest : List HostEvent} (h : s.pending = .reset :: rest) :
    step s = .next (s.withPending rest).resetBlock := by
  rw [step_of_pending h]; rfl

theorem step_of_cinit {s : State} {rest : List HostEvent} {rd : Bool}
    (h : s.pending = .request { addr := 0, wr := true, rd := rd, wdata := 0x2000 } :: rest) :
    step s = .next ((s.withPending rest).respond .done).startStream := by
  rw [step_of_write h, hostWrite_cmd, commandWrite_of_decode (i := .cinit) (by decide), exec_cinit]

/-! ### The statements -/

/-- Settles O25: a refusal is `setError`, which writes the one bit. -/
theorem refusalSetsOneBit : Obligations.RefusalSetsOneBit :=
  fun _ => ⟨rfl, rfl, rfl⟩

/-- Settles O26: a word is illegal or runs its command, which asks for the table before the stream. -/
theorem refusalCausesInOrder : Obligations.RefusalCausesInOrder := by
  intro w s
  refine ⟨fun hillegal => commandWrite_of_illegal hillegal s, fun i hi => ?_,
    fun hs => hs.stream_needs_table⟩
  have htable (hn : ¬ (readsTable i = true ∧ s.tvalid = false)) (hreads : readsTable i = true) :
      s.tvalid = true := Bool.eq_true_of_not_eq_false fun hv => hn ⟨hreads, hv⟩
  rw [commandWrite_of_decode hi]
  refine ⟨exec_of_no_table, fun hn => exec_of_wrong_stream (htable hn),
    fun hn => exec_accepted (htable hn), ?_⟩
  rintro hs ⟨⟨_, hv⟩, hwrong⟩
  exact Bool.false_ne_true ((hs.wrongStream_eq_false hv i).symm.trans hwrong)

/-- Settles O27: among the commands CINIT alone clears a bit, and it has one word; a reset and a CINIT
leave known states. -/
theorem errorBitsClearedOnlyByCinitAndReset : Obligations.ErrorBitsClearedOnlyByCinitAndReset := by
  intro s t h
  refine ⟨step_keeps_errors h, ?_⟩
  rintro (hreset | ⟨rd, hcinit⟩)
  · obtain ⟨rest, hp⟩ := List.head?_eq_some_iff.mp hreset
    obtain rfl := Host.Outcome.next.inj ((step_of_reset hp).symm.trans h)
    exact ⟨rfl, rfl, rfl⟩
  · obtain ⟨rest, hp⟩ := List.head?_eq_some_iff.mp hcinit
    obtain rfl := Host.Outcome.next.inj ((step_of_cinit hp).symm.trans h)
    exact ⟨rfl, rfl, rfl⟩

end Sys2Proof.Machine
end

section
/-! PROOF. Reset (spec/70_reset_and_hazards.md R250): power-on and a reset event leave the values of
10_state.md R35. -/

namespace Sys2Proof.Machine

/-- R35 says nothing of what the host has yet to present, nor of which draw TABLE holds: the two fields
in which a reset event differs from power-on. -/
theorem resetValues_of_any_draw (events : List HostEvent) (draw : Nat) :
    ResetValues { State.reset with pending := events, tableDraw := draw } where
  tvalid := rfl
  crc := rfl
  hold0 := rfl
  hold1 := rfl
  vcnt := rfl
  mode := rfl
  vres := rfl
  result := rfl
  errIll := rfl
  errNoTable := rfl
  errMode := rfl
  table := ⟨draw, fun _ => rfl⟩

theorem State.reset_resetValues : ResetValues State.reset :=
  resetValues_of_any_draw [] 0

theorem State.resetBlock_resetValues (s : State) : ResetValues s.resetBlock :=
  resetValues_of_any_draw s.pending (s.tableDraw + 1)

/-- Settles O1: power-on is `State.reset`, and a step that takes a reset event ends in `resetBlock`,
whatever the state before it. -/
theorem resetSetsEveryPieceOfState : Obligations.ResetSetsEveryPieceOfState :=
  ⟨State.reset_resetValues, fun s rest hp =>
    ⟨(s.withPending rest).resetBlock, step_of_reset hp, State.resetBlock_resetValues _⟩⟩

end Sys2Proof.Machine
end

section
/-! PROOF. Every command as one of three outcomes (spec/60_exceptions.md R200 to R204): refused for want of
the table, refused for the wrong stream, or accepted. What a command answers turns on TVALID and MODE
alone, so two states that agree on them are compared by comparing the outcomes. -/

namespace Sys2Proof.Machine

/-! ### The three outcomes -/

/-- What a command does where no cause of refusal applies. -/
def State.effect (s : State) : Instr → State
  | .nop => s
  | .tbuild => s.buildTable
  | .cinit => s.startStream
  | .cbyte d => s.foldByte d
  | .vbyte d => s.shiftIn d
  | .vend => s.setVerdict s.verdict
  | .tread d => s.loadResult (s.tableEntry d)

theorem exec_eq_effect {i : Instr} {s : State} (hv : readsTable i = true → s.tvalid = true)
    (hright : wrongStream i s.mode = false) : exec i s = .next (s.effect i) := by
  cases i with
  | nop => exact exec_nop s
  | tbuild => exact exec_tbuild s
  | cinit => exact exec_cinit s
  | cbyte d => exact exec_cbyte_accepted (hv rfl) (of_decide_eq_false hright) d
  | vbyte d => exact exec_vbyte_accepted (hv rfl) (of_decide_eq_false hright) d
  | vend => exact exec_vend_accepted (of_decide_eq_false hright)
  | tread d => exact exec_tread_of_tvalid (hv rfl) d

/-- Both outcomes are next states, and these are related. -/
def BothNext (R : State → State → Prop) (o o' : Host.Outcome State Fault Refusal) : Prop :=
  ∃ t t' : State, o = .next t ∧ o' = .next t' ∧ R t t'

/-- From two states with the same TVALID and MODE a command ends in the same one of the three ways. -/
theorem exec_bothNext {R : State → State → Prop} {s s' : State} (i : Instr)
    (htvalid : s.tvalid = s'.tvalid) (hmode : s.mode = s'.mode)
    (hrefused : ∀ e, R (s.setError e) (s'.setError e))
    (haccepted : (readsTable i = true → s.tvalid = true) → R (s.effect i) (s'.effect i)) :
    BothNext R (exec i s) (exec i s') := by
  by_cases htable : readsTable i = true ∧ s.tvalid = false
  · obtain ⟨hreads, hv⟩ := htable
    exact ⟨_, _, exec_of_no_table hreads hv, exec_of_no_table hreads (htvalid ▸ hv), hrefused _⟩
  · have hv (hreads : readsTable i = true) : s.tvalid = true :=
      Bool.eq_true_of_not_eq_false fun h => htable ⟨hreads, h⟩
    have hv' (hreads : readsTable i = true) : s'.tvalid = true := htvalid ▸ hv hreads
    cases hwrong : wrongStream i s.mode with
    | true =>
      exact ⟨_, _, exec_of_wrong_stream hv hwrong, exec_of_wrong_stream hv' (hmode ▸ hwrong),
        hrefused _⟩
    | false =>
      exact ⟨_, _, exec_eq_effect hv hwrong, exec_eq_effect hv' (hmode ▸ hwrong), haccepted hv⟩

/-- No command faults or is refused by the model. -/
theorem exec_total (i : Instr) (s : State) : ∃ t, exec i s = .next t := by
  obtain ⟨t, _, ht, _⟩ := exec_bothNext (R := fun _ _ => True) (s := s) i rfl rfl (fun _ => trivial)
    fun _ => trivial
  exact ⟨t, ht⟩

/-! ### What a command leaves unchanged -/

/-- The commands that ERR_NOTABLE refuses (60_exceptions.md R201). -/
theorem readsTable_iff (i : Instr) :
    readsTable i = true ↔ (∃ d, i = .cbyte d) ∨ (∃ d, i = .vbyte d) ∨ ∃ d, i = .tread d := by
  cases i <;> simp [readsTable]

/-- The commands that ERR_MODE refuses, with the MODE in which it does (60_exceptions.md R201). -/
theorem wrongStream_iff (i : Instr) (m : Mode) :
    wrongStream i m = true ↔
      ((∃ d, i = .cbyte d) ∧ m = .verify) ∨ (((∃ d, i = .vbyte d) ∨ i = .vend) ∧ m = .compute) := by
  cases i <;> simp [wrongStream]

/-- The fields of the model's own are no command's to write. -/
theorem exec_next_port {i : Instr} {s t : State} (h : exec i s = .next t) :
    t.pending = s.pending ∧ t.response = s.response ∧ t.tableDraw = s.tableDraw := by
  obtain ⟨_, rfl⟩ | ⟨_, _, rfl⟩ | ⟨_, _, rfl⟩ | ⟨_, rfl⟩ | ⟨_, rfl⟩ | ⟨d, _, _, _, rfl⟩ |
    ⟨d, _, _, _, rfl⟩ | ⟨_, _, rfl⟩ | ⟨d, _, _, rfl⟩ := exec_next h <;> simp

/-- Settles O30: each of the nine ways in which a command can end writes the registers that its state
update names. -/
theorem commandsWriteOnlyTheirRegisters : Obligations.CommandsWriteOnlyTheirRegisters := by
  intro i s t h
  obtain ⟨rfl, rfl⟩ | ⟨hreads, hv, rfl⟩ | ⟨hwrong, _, rfl⟩ | ⟨rfl, rfl⟩ | ⟨rfl, rfl⟩ |
    ⟨d, rfl, _, _, rfl⟩ | ⟨d, rfl, _, _, rfl⟩ | ⟨rfl, _, rfl⟩ | ⟨d, rfl, _, rfl⟩ := exec_next h
  case inr.inl => simp +contextual [hv, (readsTable_iff i).mp hreads]
  case inr.inr.inl => simp +contextual [(wrongStream_iff i s.mode).mp hwrong]
  all_goals simp +contextual [val_eq_vcntMax_iff]

/-! ### Error bits -/

def State.withErrors (ill noTable mode : Bool) (s : State) : State :=
  { s with errIll := ill, errNoTable := noTable, errMode := mode }

/-- The two states differ at most in their error bits. -/
def SameButErrors (t u : State) : Prop :=
  t = u.withErrors t.errIll t.errNoTable t.errMode

theorem SameButErrors.setError {s s' : State} (h : SameButErrors s s') (e : ErrorBit) :
    SameButErrors (s.setError e) (s'.setError e) := by
  rw [SameButErrors] at h
  rw [h]
  cases e <;> rfl

/-- Only VEND reads the error bits. -/
theorem SameButErrors.effect {s s' : State} (h : SameButErrors s s') {i : Instr} (hi : i ≠ .vend) :
    SameButErrors (s.effect i) (s'.effect i) := by
  rw [SameButErrors] at h
  rw [h]
  cases i with
  | vend => exact absurd rfl hi
  | nop | tbuild | cinit | cbyte d | vbyte d | tread d => rfl

/-- Settles O28: the error bits are not among what a command's refusal or its effect reads, VEND's
verdict apart. -/
theorem errorBitsChangeOnlyTheVerdict : Obligations.ErrorBitsChangeOnlyTheVerdict := by
  refine ⟨fun i s t a b c hi ht => ?_, fun s hmode herr => exec_vend_of_anyError hmode herr⟩
  have hsame : SameButErrors s (s.withErrors a b c) := rfl
  obtain ⟨t', u, ht', hu, hrelated⟩ :
      BothNext SameButErrors (exec i s) (exec i (s.withErrors a b c)) :=
    exec_bothNext i rfl rfl hsame.setError fun _ => hsame.effect hi
  obtain rfl := Host.Outcome.next.inj (ht'.symm.trans ht)
  exact ⟨u, hu, hrelated⟩

end Sys2Proof.Machine
end

section
/-! PROOF. The invariant (Safety.lean; spec/60_exceptions.md R203, spec/43_verifier.md R143): it holds
after reset, it reads none of RESULT, the error bits and the model's own fields, and each accepted command
keeps it. -/

namespace Sys2Proof.Machine

/-! ### Reset -/

/-- A stream that has taken no byte asks of the invariant only what it says of TABLE. -/
theorem invariant_of_fresh_stream {s : State} (hwf : s.table.wf = true)
    (hbuilt : s.tvalid = true → ∀ k : Byte, s.table.entry? k.toNat = some (gen k))
    (hcrc : s.crc = Config.init) (hheld : s.hold0 = 0 ∧ s.hold1 = 0 ∧ s.vcnt = 0)
    (hmode : s.mode = .idle) (hvres : s.vres = .none) : Invariant s where
  table_wf := hwf
  built := hbuilt
  stream_needs_table := fun hstream => absurd hmode hstream
  delay_line_empty := fun _ => hheld
  verify_counts := by simp [hmode]
  first_byte := fun _ => hheld.1
  nothing_folded := fun _ _ => hcrc
  no_verdict_in_compute := fun _ => hvres
  pass_matches := by simp [hvres]
  short_counts := by simp [hvres]

theorem State.reset_invariant : Invariant State.reset :=
  invariant_of_fresh_stream rfl nofun rfl ⟨rfl, rfl, rfl⟩ rfl rfl

/-- CINIT writes only what R35 gives the same value. -/
theorem ResetValues.startStream_eq {s : State} (h : ResetValues s) : s.startStream = s := by
  obtain ⟨_, hcrc, hhold0, hhold1, hvcnt, hmode, hvres, _, hill, hnoTable, herrMode, _⟩ := h
  cases s
  simp_all [State.startStream, Config.init]

/-! ### Updates of what the invariant does not read -/

/-- The invariant speaks of eight fields. -/
theorem Invariant.congr {s t : State} (hs : Invariant s) (htable : t.table = s.table)
    (htvalid : t.tvalid = s.tvalid) (hcrc : t.crc = s.crc) (hhold0 : t.hold0 = s.hold0)
    (hhold1 : t.hold1 = s.hold1) (hvcnt : t.vcnt = s.vcnt) (hmode : t.mode = s.mode)
    (hvres : t.vres = s.vres) : Invariant t := by
  obtain ⟨table, tvalid, crc, hold0, hold1, vcnt, mode, vres⟩ := t
  subst htable htvalid hcrc hhold0 hhold1 hvcnt hmode hvres
  exact ⟨hs.table_wf, hs.built, hs.stream_needs_table, hs.delay_line_empty, hs.verify_counts,
    hs.first_byte, hs.nothing_folded, hs.no_verdict_in_compute, hs.pass_matches, hs.short_counts⟩

theorem Invariant.respond {s : State} (hs : Invariant s) (r : Response) :
    Invariant (s.respond r) :=
  hs.congr rfl rfl rfl rfl rfl rfl rfl rfl

theorem Invariant.withPending {s : State} (hs : Invariant s) (rest : List HostEvent) :
    Invariant (s.withPending rest) :=
  hs.congr rfl rfl rfl rfl rfl rfl rfl rfl

theorem Invariant.setError {s : State} (hs : Invariant s) (e : ErrorBit) :
    Invariant (s.setError e) :=
  hs.congr (by simp) (by simp) (by simp) (by simp) (by simp) (by simp) (by simp) (by simp)

theorem Invariant.loadResult {s : State} (hs : Invariant s) (v : Word) :
    Invariant (s.loadResult v) :=
  hs.congr rfl rfl rfl rfl rfl rfl rfl rfl

/-- A reset does not look at the state before it. -/
theorem State.resetBlock_invariant (s : State) : Invariant s.resetBlock :=
  State.reset_invariant.congr rfl rfl rfl rfl rfl rfl rfl rfl

/-! ### Accepted commands -/

theorem Invariant.buildTable {s : State} (hs : Invariant s) : Invariant s.buildTable :=
  { hs with
    table_wf := s.table.wf_build hs.table_wf
    built := fun _ => s.table.entry?_build
    stream_needs_table := fun _ => rfl }

theorem Invariant.startStream {s : State} (hs : Invariant s) : Invariant s.startStream :=
  invariant_of_fresh_stream hs.table_wf hs.built rfl ⟨rfl, rfl, rfl⟩ rfl rfl

/-- A checksum stream leaves the delay line empty. -/
theorem Invariant.foldByte {s : State} (hs : Invariant s) (hv : s.tvalid = true)
    (hmode : s.mode ≠ .verify) (d : Byte) : Invariant (s.foldByte d) where
  table_wf := hs.table_wf
  built := hs.built
  stream_needs_table := fun _ => hv
  delay_line_empty := fun _ => hs.delay_line_empty hmode
  verify_counts := nofun
  first_byte := hs.first_byte
  nothing_folded := fun hcompute => absurd rfl hcompute
  no_verdict_in_compute := fun _ => rfl
  pass_matches := nofun
  short_counts := nofun

theorem vcntNext_ne_zero (n : Fin 3) : vcntNext n ≠ 0 := by
  decide +revert

/-- A byte after which VCNT is not 2 is a stream's first. -/
theorem eq_zero_of_vcntNext_ne_two {n : Fin 3} (h : vcntNext n ≠ 2) : n = 0 := by
  decide +revert

/-- Before its first byte a stream holds none, and CRC is INIT. -/
theorem Invariant.before_first_byte {s : State} (hs : Invariant s) (hmode : s.mode ≠ .compute)
    (hcount : s.vcnt = 0) : s.hold1 = 0 ∧ s.crc = Config.init := by
  have hverify : s.mode ≠ .verify := fun h => hs.verify_counts h hcount
  obtain ⟨_, hhold1, _⟩ := hs.delay_line_empty hverify
  exact ⟨hhold1, hs.nothing_folded hmode (by rw [hcount]; decide)⟩

theorem Invariant.shiftIn {s : State} (hs : Invariant s) (hv : s.tvalid = true)
    (hmode : s.mode ≠ .compute) (d : Byte) : Invariant (s.shiftIn d) where
  table_wf := hs.table_wf
  built := hs.built
  stream_needs_table := fun _ => hv
  delay_line_empty := fun hverify => absurd rfl hverify
  verify_counts := fun _ => vcntNext_ne_zero s.vcnt
  first_byte := fun hone => by
    have hcount : s.vcnt = 0 := eq_zero_of_vcntNext_ne_two (ne_of_eq_of_ne hone (by decide))
    exact (hs.before_first_byte hmode hcount).1
  nothing_folded := fun _ hless => by
    have hcount : s.vcnt = 0 := eq_zero_of_vcntNext_ne_two hless
    rw [State.shiftIn_crc, hcount, if_neg (by decide)]
    exact (hs.before_first_byte hmode hcount).2
  no_verdict_in_compute := nofun
  pass_matches := nofun
  short_counts := nofun

theorem State.verdict_eq_pass {s : State} (h : s.verdict = .pass) :
    s.vcnt = 2 ∧ lowByte s.crc = s.hold0 ∧ highByte s.crc = s.hold1 := by
  rw [State.verdict] at h
  split_ifs at h with herr hcount hmatch
  rw [val_lt_vcntMax_iff, not_not] at hcount
  exact ⟨hcount, hmatch⟩

theorem State.verdict_eq_short {s : State} (h : s.verdict = .short) : s.vcnt ≠ 2 := by
  rw [State.verdict] at h
  split_ifs at h with herr hcount hmatch
  exact (val_lt_vcntMax_iff _).mp hcount

/-- VEND's verdict is PASS or SHORT only beside what these two ask. -/
theorem Invariant.setVerdict {s : State} (hs : Invariant s) (hmode : s.mode ≠ .compute) :
    Invariant (s.setVerdict s.verdict) :=
  { hs with
    no_verdict_in_compute := fun hcompute => absurd hcompute hmode
    pass_matches := State.verdict_eq_pass
    short_counts := State.verdict_eq_short }

/-! ### Steps -/

theorem Invariant.after_command {i : Instr} {s t : State} (hs : Invariant s)
    (h : exec i s = .next t) : Invariant t := by
  obtain ⟨_, rfl⟩ | ⟨_, _, rfl⟩ | ⟨_, _, rfl⟩ | ⟨_, rfl⟩ | ⟨_, rfl⟩ | ⟨d, _, hv, hmode, rfl⟩ |
    ⟨d, _, hv, hmode, rfl⟩ | ⟨_, hmode, rfl⟩ | ⟨d, _, _, rfl⟩ := exec_next h
  · exact hs
  · exact hs.setError _
  · exact hs.setError _
  · exact hs.buildTable
  · exact hs.startStream
  · exact hs.foldByte hv hmode d
  · exact hs.shiftIn hv hmode d
  · exact hs.setVerdict hmode
  · exact hs.loadResult _

theorem Invariant.after_write {off : Offset} {v : Word} {s t : State} (hs : Invariant s)
    (h : hostWrite off v s = .next t) : Invariant t := by
  obtain ⟨_, hcommand⟩ | ⟨_, rfl⟩ := hostWrite_next h
  · obtain ⟨_, rfl⟩ | ⟨i, _, hexec⟩ := commandWrite_next hcommand
    · exact hs.setError _
    · exact hs.after_command hexec
  · exact hs

/-! ### The statements -/

/-- Settles O2: at the values of R35 the stream is already a fresh one. -/
theorem resetLeavesStreamAsCinitDoes : Obligations.ResetLeavesStreamAsCinitDoes := by
  intro s hs
  rw [exec_cinit, hs.startStream_eq]

/-- Settles O3: reset leaves a fresh stream and nothing of TABLE listed. -/
theorem invariantHoldsAtReset : Obligations.InvariantHoldsAtReset :=
  State.reset_invariant

/-- Settles O4: a step waits, resets, reads, or writes, and of these only a write to CMD touches what
the invariant reads. -/
theorem stepKeepsInvariant : Obligations.StepKeepsInvariant := by
  intro s t hs h
  obtain ⟨_, rfl⟩ | ⟨rest, _, rfl⟩ | ⟨r, rest, _, hrequest⟩ := step_next h
  · exact hs.respond _
  · exact State.resetBlock_invariant _
  · have htaken : Invariant (s.withPending rest) := hs.withPending rest
    obtain ⟨_, hwrite⟩ | ⟨_, _, rfl⟩ | ⟨_, _, rfl⟩ := hrequest
    · exact (htaken.respond _).after_write hwrite
    · exact htaken.respond _
    · exact htaken.respond _

end Sys2Proof.Machine
end

section
/-! PROOF. Decoding against encoding (spec/30_encoding.md R73, R79): both directions, and that the rows of
the opcode map are told apart by `OP`. -/

namespace Sys2Proof.Machine

theorem decode_encode (i : Instr) : decode (encode i) = some i := by
  cases i with
  | nop | tbuild | cinit | vend => decide
  | cbyte d => exact decode_cbyte_word d
  | vbyte d => exact decode_vbyte_word d
  | tread d => exact decode_tread_word d

/-- The word of a row's command has the row's `OP`, a zero `RSV`, and the operand, which is 0 where the
mask covers `D`. -/
theorem fieldsOf_encode_command {row : OpcodeRow} (hrow : row ∈ opcodeMap) {d : Byte}
    (hd : row.mask = 0xFFFF → d = 0) :
    fieldsOf (encode (row.command d)) = ⟨(fieldsOf row.pattern).op, 0, d⟩ := by
  simp only [opcodeMap, List.mem_cons, List.not_mem_nil, or_false] at hrow
  obtain rfl | rfl | rfl | rfl | rfl | rfl | rfl := hrow
  · rw [hd rfl]; rfl
  · rw [hd rfl]; rfl
  · rw [hd rfl]; rfl
  · exact Laws.fieldsOf_or_operand 0x3000 d (by decide)
  · exact Laws.fieldsOf_or_operand 0x4000 d (by decide)
  · rw [hd rfl]; rfl
  · exact Laws.fieldsOf_or_operand 0x6000 d (by decide)

/-- Each row has an `OP` of its own. -/
theorem opcodeMap_ops_distinct :
    opcodeMap.Pairwise fun r q => (fieldsOf r.pattern).op ≠ (fieldsOf q.pattern).op := by
  decide

/-- Settles O5: a word with an operand has its row's `OP` and the operand as its fields. -/
theorem decodeEncodeRoundTrip : Obligations.DecodeEncodeRoundTrip :=
  decode_encode

/-- Settles O6: the word and its command's encoding have the fields that the command's row asks for. -/
theorem encodeDecodeRoundTrip : Obligations.EncodeDecodeRoundTrip := by
  intro w i h
  obtain ⟨row, hrow, hw, rfl⟩ := exists_row_of_decode h
  obtain ⟨hop, hrsv, hd⟩ := (selected_iff_fields w hrow).mp hw
  refine fieldsOf_injective ?_
  rw [fieldsOf_encode_command hrow hd, ← hop, ← hrsv]

/-- Settles O8: a word that two rows match has the `OP` of both. -/
theorem opcodeRowsNeverOverlap : Obligations.OpcodeRowsNeverOverlap := by
  refine opcodeMap_ops_distinct.imp_of_mem fun {r q} hr hq hne w ⟨hwr, hwq⟩ => hne ?_
  obtain ⟨hopr, _⟩ := (selected_iff_fields w hr).mp hwr
  obtain ⟨hopq, _⟩ := (selected_iff_fields w hq).mp hwq
  exact hopr.symm.trans hopq

/-- Settles O9: fourteen words, decoded. -/
theorem decodeKnownWords : Obligations.DecodeKnownWords := by
  unfold Obligations.DecodeKnownWords; decide

end Sys2Proof.Machine
end

section
/-! PROOF. Runs over what the host has pending (spec/20_memory.md R56, spec/70_reset_and_hazards.md R251,
R256): every step answers and takes one event, and the run over a list of command writes is the commands
one after another. -/

namespace Sys2Proof.Machine

/-! ### Every step answers -/

theorem commandWrite_total (w : Word) (s : State) :
    ∃ t, commandWrite w s = .next t ∧ t.pending = s.pending := by
  cases hw : decode w with
  | none => exact ⟨_, commandWrite_of_illegal hw s, s.setError_pending _⟩
  | some i =>
    obtain ⟨t, ht⟩ := exec_total i s
    exact ⟨t, by rw [commandWrite_of_decode hw, ht], (exec_next_port ht).1⟩

theorem hostWrite_total (off : Offset) (v : Word) (s : State) :
    ∃ t, hostWrite off v s = .next t ∧ t.pending = s.pending := by
  by_cases hoff : off = 0
  · subst hoff
    exact commandWrite_total v s
  · exact ⟨s, hostWrite_of_ne_zero hoff v s, rfl⟩

theorem performRequest_total (r : PortRequest) (s : State) :
    ∃ t, performRequest r s = .next t ∧ t.pending = s.pending := by
  rw [performRequest]
  cases r.transaction with
  | none => exact ⟨_, rfl, rfl⟩
  | some a =>
    cases a with
    | write off v => exact hostWrite_total off v (s.respond .done)
    | read off => exact ⟨_, rfl, rfl⟩

theorem step_of_nil {s : State} (h : s.pending = []) : step s = .next (s.respond .idle) := by
  rw [step, h]; rfl

theorem step_total (s : State) : ∃ t, step s = .next t ∧ t.pending = s.pending.tail := by
  cases hp : s.pending with
  | nil => exact ⟨_, step_of_nil hp, hp⟩
  | cons e rest =>
    rw [step_of_pending hp]
    cases e with
    | reset => exact ⟨_, rfl, rfl⟩
    | request r => exact performRequest_total r (s.withPending rest)

theorem run_pending_total (n : Nat) (s : State) (hn : s.pending.length = n) :
    ∃ t, run n s = .next t ∧ t.pending = [] := by
  induction n generalizing s with
  | zero => exact ⟨s, run_zero s, List.length_eq_zero_iff.mp hn⟩
  | succ n ih =>
    obtain ⟨t, ht, hpending⟩ := step_total s
    rw [run_succ ht]
    exact ih t (by rw [hpending, List.length_tail, hn, Nat.add_sub_cancel])

/-! ### Commands do not see what is pending -/

theorem exec_withPending {i : Instr} {s t : State} (h : exec i s = .next t)
    (rest : List HostEvent) : exec i (s.withPending rest) = .next (t.withPending rest) := by
  have heffect : (s.withPending rest).effect i = (s.effect i).withPending rest := by
    cases i <;> rfl
  have hrefused (e : ErrorBit) : (s.withPending rest).setError e = (s.setError e).withPending rest := by
    cases e <;> rfl
  obtain ⟨t', u, ht', hu, rfl⟩ :
      BothNext (fun t u => u = t.withPending rest) (exec i s) (exec i (s.withPending rest)) :=
    exec_bothNext i rfl rfl hrefused fun _ => heffect
  rw [hu, Host.Outcome.next.inj (ht'.symm.trans h)]

theorem execAll_total (commands : List Instr) (s : State) :
    ∃ t, execAll commands s = .next t ∧ t.pending = s.pending ∧ t.response = s.response := by
  induction commands generalizing s with
  | nil => exact ⟨s, execAll_nil s, rfl, rfl⟩
  | cons i rest ih =>
    obtain ⟨t, ht⟩ := exec_total i s
    obtain ⟨hpending, hresponse, _⟩ := exec_next_port ht
    obtain ⟨u, hu, hu_pending, hu_response⟩ := ih t
    exact ⟨u, by rw [execAll_cons ht, hu], hu_pending.trans hpending, hu_response.trans hresponse⟩

/-! ### The run over pending writes -/

/-- One written command, performed as if nothing but `rest` were pending behind it. -/
theorem step_cmdRequest {s t : State} {i : Instr} {later : List HostEvent}
    (hp : s.pending = cmdRequest (encode i) :: later) {rest : List HostEvent}
    (h : exec i ((s.withPending rest).respond .done) = .next t) :
    step s = .next (t.withPending later) := by
  rw [step_of_write hp, hostWrite_cmd, commandWrite_of_decode (decode_encode i)]
  exact exec_withPending h later

theorem State.withPending_eq_self {s : State} {rest : List HostEvent} (h : s.pending = rest) :
    s.withPending rest = s := by
  subst h; rfl

theorem State.respond_eq_self {s : State} {r : Response} (h : s.response = r) :
    s.respond r = s := by
  subst h; rfl

theorem run_cmdRequests {commands : List Instr} {rest : List HostEvent} {s : State}
    (hne : commands ≠ []) (hp : s.pending = cmdRequests commands ++ rest) :
    run commands.length s = execAll commands ((s.withPending rest).respond .done) := by
  induction commands generalizing s with
  | nil => exact absurd rfl hne
  | cons i more ih =>
    obtain ⟨t, ht⟩ := exec_total i ((s.withPending rest).respond .done)
    obtain ⟨hpending, hresponse, _⟩ := exec_next_port ht
    have hkept : t.withPending rest = t := State.withPending_eq_self hpending
    rw [List.length_cons, run_succ (step_cmdRequest hp ht), execAll_cons ht]
    cases more with
    | nil => exact congrArg Host.Outcome.next hkept
    | cons j others =>
      rw [ih (List.cons_ne_nil j others) rfl]
      exact congrArg (execAll (j :: others))
        ((congrArg (State.respond .done) hkept).trans (State.respond_eq_self hresponse))

/-! ### The statements -/

/-- Settles O14: with no event pending a step is a wait. -/
theorem idleStepWaits : Obligations.IdleStepWaits :=
  fun _ => step_of_nil

/-- Settles O15: each step takes one event, so as many steps as there are events take them all. -/
theorem everyTransactionCompletes : Obligations.EveryTransactionCompletes :=
  ⟨step_total, fun s => run_pending_total _ s rfl⟩

/-- Settles O16: by induction over the sequence; a command's meaning does not depend on what is pending
behind it. -/
theorem pendingCommandsRunInOrder : Obligations.PendingCommandsRunInOrder := by
  intro commands rest s hne hp
  obtain ⟨t, ht, hpending, hresponse⟩ := execAll_total commands ((s.withPending rest).respond .done)
  exact ⟨t, ht, hpending, hresponse, by rw [run_cmdRequests hne hp, ht]⟩

end Sys2Proof.Machine
end

section
/-! PROOF. TABLE's contents before TBUILD (spec/10_state.md R29, R37): two states that differ only in them
are kept so by every operation of the block, from the state updates up to a step. -/

namespace Sys2Proof.Machine

section AgreeingStates

variable {s s' : State}

/-! ### The state updates -/

theorem AgreeButDraw.setError (h : AgreeButDraw s s') (e : ErrorBit) :
    AgreeButDraw (s.setError e) (s'.setError e) := by
  cases e with
  | illegal => exact { h with errIll := rfl }
  | noTable => exact { h with errNoTable := rfl }
  | mode => exact { h with errMode := rfl }

theorem AgreeButDraw.respond (h : AgreeButDraw s s') (r : Response) :
    AgreeButDraw (s.respond r) (s'.respond r) :=
  { h with response := rfl }

theorem AgreeButDraw.withPending (h : AgreeButDraw s s') (rest : List HostEvent) :
    AgreeButDraw (s.withPending rest) (s'.withPending rest) :=
  { h with pending := rfl }

theorem AgreeButDraw.setVerdict (h : AgreeButDraw s s') (v : Verdict) :
    AgreeButDraw (s.setVerdict v) (s'.setVerdict v) :=
  { h with vres := rfl }

theorem AgreeButDraw.loadResult (h : AgreeButDraw s s') (v : Word) :
    AgreeButDraw (s.loadResult v) (s'.loadResult v) :=
  { h with result := rfl }

/-- A reset draws TABLE anew, from two counters that may differ. -/
theorem AgreeButDraw.resetBlock (h : AgreeButDraw s s') :
    AgreeButDraw s.resetBlock s'.resetBlock := by
  constructor <;> simp [h.pending]

/-- TBUILD leaves nothing of the unspecified contents. -/
theorem AgreeButDraw.buildTable (h : AgreeButDraw s s') :
    AgreeButDraw s.buildTable s'.buildTable :=
  { h with
    tvalid := rfl
    entries := fun _ k => by rw [State.buildTable_tableEntry, State.buildTable_tableEntry] }

theorem AgreeButDraw.startStream (h : AgreeButDraw s s') :
    AgreeButDraw s.startStream s'.startStream :=
  { h with
    crc := rfl, hold0 := rfl, hold1 := rfl, vcnt := rfl, mode := rfl, vres := rfl
    errIll := rfl, errNoTable := rfl, errMode := rfl }

/-- The fold reads TABLE, where the two states agree while TVALID = 1. -/
theorem AgreeButDraw.foldStep_eq (h : AgreeButDraw s s') (hv : s.tvalid = true) (c : Word) (b : Byte) :
    s.foldStep c b = s'.foldStep c b := by
  rw [State.foldStep, h.entries hv, State.foldStep]

theorem AgreeButDraw.foldByte (h : AgreeButDraw s s') (hv : s.tvalid = true) (d : Byte) :
    AgreeButDraw (s.foldByte d) (s'.foldByte d) :=
  { h with
    crc := by rw [State.foldByte_crc, h.foldStep_eq hv, h.crc, State.foldByte_crc]
    mode := rfl, vres := rfl }

theorem AgreeButDraw.shiftIn (h : AgreeButDraw s s') (hv : s.tvalid = true) (d : Byte) :
    AgreeButDraw (s.shiftIn d) (s'.shiftIn d) :=
  { h with
    crc := by
      rw [State.shiftIn_crc, h.foldStep_eq hv, h.crc, h.hold0, h.vcnt, State.shiftIn_crc]
    hold0 := h.hold1
    hold1 := rfl
    vcnt := congrArg vcntNext h.vcnt
    mode := rfl, vres := rfl }

/-! ### What is read -/

theorem AgreeButDraw.verdict_eq (h : AgreeButDraw s s') : s.verdict = s'.verdict := by
  rw [State.verdict, State.anyError, h.errIll, h.errNoTable, h.errMode, h.vcnt, h.crc, h.hold0,
    h.hold1, State.verdict, State.anyError]

theorem AgreeButDraw.status_eq (h : AgreeButDraw s s') : s.status = s'.status := by
  simp only [State.status, h.errIll, h.errNoTable, h.errMode, h.vcnt, h.vres, h.mode, h.tvalid]

/-- No register of the window shows an entry of TABLE. -/
theorem AgreeButDraw.hostRead_eq (h : AgreeButDraw s s') (off : Offset) :
    s.hostRead off = s'.hostRead off := by
  simp only [State.hostRead_eq, h.crc, h.result, h.status_eq, h.hold0, h.hold1]

/-! ### From a command to a step -/

theorem AgreeButDraw.effect (h : AgreeButDraw s s') {i : Instr}
    (hv : readsTable i = true → s.tvalid = true) : AgreeButDraw (s.effect i) (s'.effect i) := by
  cases i with
  | nop => exact h
  | tbuild => exact h.buildTable
  | cinit => exact h.startStream
  | cbyte d => exact h.foldByte (hv rfl) d
  | vbyte d => exact h.shiftIn (hv rfl) d
  | vend =>
    rw [State.effect, h.verdict_eq]
    exact h.setVerdict _
  | tread d =>
    rw [State.effect, h.entries (hv rfl)]
    exact h.loadResult _

theorem AgreeButDraw.after_command (h : AgreeButDraw s s') (i : Instr) :
    BothNext AgreeButDraw (exec i s) (exec i s') :=
  exec_bothNext i h.tvalid h.mode h.setError h.effect

theorem AgreeButDraw.after_write (h : AgreeButDraw s s') (off : Offset) (v : Word) :
    BothNext AgreeButDraw (hostWrite off v s) (hostWrite off v s') := by
  by_cases hoff : off = 0
  · subst hoff
    rw [hostWrite_cmd, hostWrite_cmd]
    cases hv : decode v with
    | none =>
      exact ⟨_, _, commandWrite_of_illegal hv s, commandWrite_of_illegal hv s', h.setError _⟩
    | some i =>
      rw [commandWrite_of_decode hv, commandWrite_of_decode hv]
      exact h.after_command i
  · exact ⟨s, s', hostWrite_of_ne_zero hoff v s, hostWrite_of_ne_zero hoff v s', h⟩

theorem AgreeButDraw.after_request (h : AgreeButDraw s s') (r : PortRequest) :
    BothNext AgreeButDraw (performRequest r s) (performRequest r s') := by
  rw [performRequest, performRequest]
  cases r.transaction with
  | none => exact ⟨_, _, rfl, rfl, h.respond _⟩
  | some a =>
    cases a with
    | write off v => exact (h.respond .done).after_write off v
    | read off => exact ⟨_, _, rfl, rfl, h.hostRead_eq off ▸ h.respond (.data (s.hostRead off))⟩

theorem AgreeButDraw.after_step (h : AgreeButDraw s s') : BothNext AgreeButDraw (step s) (step s') := by
  cases hp : s.pending with
  | nil => exact ⟨_, _, step_of_nil hp, step_of_nil (h.pending ▸ hp), h.respond _⟩
  | cons e rest =>
    rw [step_of_pending hp, step_of_pending (h.pending ▸ hp)]
    cases e with
    | reset => exact ⟨_, _, rfl, rfl, (h.withPending rest).resetBlock⟩
    | request r => exact (h.withPending rest).after_request r

end AgreeingStates

/-- Settles O29: the two states answer alike, and TABLE is read only where they agree. -/
theorem tableContentsBeforeBuildUnobservable : Obligations.TableContentsBeforeBuildUnobservable := by
  intro s s' t h ht
  obtain ⟨u, t', hu, ht', hagree⟩ := h.after_step
  obtain rfl := Host.Outcome.next.inj (hu.symm.trans ht)
  exact ⟨t', ht', hagree⟩

end Sys2Proof.Machine
end

section
/-! PROOF. Tampering (spec/41_table_generator.md R107, spec/43_verifier.md R146): a step of the fold is
injective in the running value and in the byte, so two sequences that differ in one byte have different
checksums. -/

namespace Sys2Proof.Machine

theorem crcStep_injective_left (b : Byte) : Function.Injective fun c => crcStep c b := by
  intro c d h
  obtain ⟨hlow, hhigh⟩ := bytes_of_crcStep_eq h
  have hc : c = highByte d ++ lowByte d :=
    (eq_append_iff ..).mpr ⟨(BitVec.xor_left_inj b).mp hlow, hhigh⟩
  exact hc.trans ((eq_append_iff ..).mpr ⟨rfl, rfl⟩).symm

theorem crcStep_injective_right (c : Word) : Function.Injective (crcStep c) := by
  intro a b h
  obtain ⟨hlow, _⟩ := bytes_of_crcStep_eq h
  exact (BitVec.xor_right_inj _).mp hlow

/-- Folding more bytes keeps running values apart. -/
theorem foldl_crcStep_injective (bytes : List Byte) :
    Function.Injective fun c => bytes.foldl crcStep c := by
  induction bytes with
  | nil => exact fun _ _ h => h
  | cons b rest ih => exact ih.comp (crcStep_injective_left b)

theorem crc16_ne_of_byte_ne (first last : List Byte) {a b : Byte} (h : a ≠ b) :
    crc16 (first ++ a :: last) ≠ crc16 (first ++ b :: last) := by
  rw [crc16_append, crc16_append]
  exact fun heq => h (crcStep_injective_right _ (foldl_crcStep_injective last heq))

/-- Changing the byte at one place changes the checksum. -/
theorem crc16_set_ne {frame : List Byte} {j : Nat} (hj : j < frame.length) {b : Byte}
    (h : b ≠ frame.getD j 0) : crc16 (frame.set j b) ≠ crc16 frame := by
  rw [List.getD_eq_getElem _ _ hj] at h
  have hframe : frame = frame.take j ++ frame[j] :: frame.drop (j + 1) := by
    rw [List.getElem_cons_drop, List.take_append_drop]
  rw [List.set_eq_take_append_cons_drop, if_pos hj]
  conv_rhs => rw [hframe]
  exact crc16_ne_of_byte_ne _ _ h

/-- A flipped bit changes its byte. -/
theorem xor_bit_ne (b : Byte) {k : Nat} (hk : k < 8) : b ^^^ (1#8 <<< k) ≠ b := by
  intro h
  have hbit := congrArg (fun v => v.getLsbD k) h
  simp [hk] at hbit

/-- A passing frame with one byte changed fails: its residue is no longer 0 (R148). -/
theorem frameVerdict_of_byte_changed {frame : List Byte} (hlen : 2 ≤ frame.length)
    (hpass : verifyFrame frame = true) {j : Nat} (hj : j < frame.length) {b : Byte}
    (h : b ≠ frame.getD j 0) : frameVerdict (frame.set j b) = .fail := by
  obtain ⟨hresidue, _⟩ := verdictFromResidue
  have hlen' : 2 ≤ (frame.set j b).length := by rwa [List.length_set]
  have hfail : ¬ verifyFrame (frame.set j b) = true := by
    rw [hresidue _ hlen', ← (hresidue _ hlen).mp hpass]
    exact crc16_set_ne hj h
  rw [frameVerdict, if_neg (Nat.not_lt.mpr hlen'), if_neg hfail]

/-- Settles O32: the high bytes are pairwise distinct, and so are the entries. -/
theorem genHighBytesDistinct : Obligations.GenHighBytesDistinct :=
  ⟨fun _ _ h => highByte_gen_injective h, fun _ _ h => highByte_gen_injective (congrArg highByte h),
    by decide⟩

/-- Settles O40: a flipped bit changes one byte, and with it the residue. -/
theorem singleBitTamperFails : Obligations.SingleBitTamperFails := by
  intro frame j k s hv hs hlen hpass hj hk
  obtain ⟨t, ht, hvres⟩ :=
    execAll_verifyCommands (frame.set j (frame.getD j 0 ^^^ (1#8 <<< k))) hv hs
  exact ⟨t, ht, hvres.trans (frameVerdict_of_byte_changed hlen hpass hj (xor_bit_ne _ hk))⟩

end Sys2Proof.Machine
end

section
/-! PROOF. STATUS (spec/10_state.md R32) and a host that runs VERIFY and then reads it (spec/20_memory.md
R54, R56; spec/43_verifier.md R144). -/

namespace Sys2Proof.Machine

/-! ### The fields of STATUS -/

/-- The flags, a bit each. -/
theorem State.status_getLsbD (s : State) :
    s.status.getLsbD 0 = s.tvalid ∧ s.status.getLsbD 7 = s.errIll ∧
    s.status.getLsbD 8 = s.errNoTable ∧ s.status.getLsbD 9 = s.errMode := by
  simp only [State.status, BitVec.getLsbD_append, Nat.reduceLT, Nat.reduceSub, if_true, if_false]
  simp

/-- The codes, two bits each. -/
theorem State.status_extractLsb' (s : State) :
    s.status.extractLsb' 1 2 = s.mode.code ∧ s.status.extractLsb' 3 2 = s.vres.code ∧
    s.status.extractLsb' 5 2 = vcntBits s.vcnt := by
  simp (disch := decide) only [State.status, BitVec.extractLsb'_append_eq_of_le,
    BitVec.extractLsb'_append_eq_right, Nat.reduceSub, and_self]

theorem State.status_reserved (s : State) : s.status.extractLsb' 10 6 = 0 := by
  simp (disch := decide) only [State.status, BitVec.extractLsb'_append_eq_of_le, Nat.reduceSub]
  rfl

theorem Mode.code_eq (m : Mode) :
    m.code = if m = .idle then 0 else if m = .compute then 1 else 2 := by
  cases m <;> rfl

theorem Verdict.code_eq (v : Verdict) :
    v.code = if v = .none then 0 else if v = .pass then 1 else if v = .fail then 2 else 3 := by
  cases v <;> rfl

theorem Mode.code_ne_three (m : Mode) : m.code ≠ 3 := by
  cases m <;> decide

theorem vcntBits_toNat (n : Fin 3) : (vcntBits n).toNat = n.val := by
  decide +revert

theorem vcntBits_ne_three (n : Fin 3) : vcntBits n ≠ 3 := by
  decide +revert

/-- Settles O13: a part of the concatenation is the field that stands there. -/
theorem statusShowsEveryField : Obligations.StatusShowsEveryField := by
  intro s
  obtain ⟨htvalid, hill, hnoTable, herrMode⟩ := s.status_getLsbD
  obtain ⟨hmode, hvres, hvcnt⟩ := s.status_extractLsb'
  rw [hmode, hvres, hvcnt]
  exact ⟨htvalid, s.mode.code_eq, s.vres.code_eq, vcntBits_toNat _, hill, hnoTable, herrMode,
    s.status_reserved, s.mode.code_ne_three, vcntBits_ne_three _⟩

/-! ### Reading the verdict -/

/-- A run in two parts. -/
theorem run_add {m : Nat} {s t : State} (h : run m s = .next t) (n : Nat) :
    run (m + n) s = run n t := by
  induction m generalizing s with
  | zero =>
    rw [run_zero, Host.Outcome.next.injEq] at h
    rw [Nat.zero_add, h]
  | succ m ih =>
    obtain ⟨u, hu, _⟩ := step_total s
    rw [run_succ hu] at h
    rw [Nat.add_right_comm, run_succ hu, ih h]

theorem frameVerdict_code (frame : List Byte) :
    (frameVerdict frame).code
      = if frame.length < 2 then 3 else if verifyFrame frame = true then 1 else 2 := by
  rw [frameVerdict]
  split_ifs <;> rfl

theorem verifyCommands_length (frame : List Byte) :
    (verifyCommands frame).length = frame.length + 2 := by
  simp [verifyCommands]

/-- Settles O43: the run over the writes is the commands' meanings, which leave the frame's verdict in
VRES, and the last step reads STATUS. -/
theorem hostReadsVerdictOfFrame : Obligations.HostReadsVerdictOfFrame := by
  intro frame rest s hv hs hp
  have hne : verifyCommands frame ≠ [] := List.cons_ne_nil _ _
  obtain ⟨t, ht, hpending, _, hrun⟩ :=
    pendingCommandsRunInOrder (verifyCommands frame) (readRequest 3 :: rest) s hne hp
  have hvres : t.vres = frameVerdict frame := by
    obtain ⟨t', ht', hvres⟩ := execAll_verifyCommands frame
      (s := { s with pending := readRequest 3 :: rest, response := .done }) hv hs
    obtain rfl := Host.Outcome.next.inj (ht'.symm.trans ht)
    exact hvres
  have hread : run 1 t = .next ((t.withPending rest).respond (.data t.status)) :=
    run_succ (step_of_read hpending)
  refine ⟨(t.withPending rest).respond (.data t.status), t.status, ?_, rfl, rfl, ?_⟩
  · rw [verifyCommands_length] at hrun
    rw [run_add hrun 1, hread]
  · obtain ⟨_, hfield, _⟩ := t.status_extractLsb'
    rw [hfield, hvres, frameVerdict_code]

end Sys2Proof.Machine
end

section
/-! PROOF. The assembler (spec/30_encoding.md R77) on the text that `showProgram` writes: the text splits
into the lines of the commands, and each line assembles to its command's word. -/

namespace Sys2Proof.Machine

/-! ### Characters -/

/-- A character that may stand inside a mnemonic or an operand: no blank, no comment, no line end. -/
def isWordChar (c : Char) : Bool := !isBlank c && decide (c ≠ ';') && decide (c ≠ '\n')

theorem isBlank_of_isWordChar {c : Char} (h : isWordChar c = true) : isBlank c = false := by
  simp_all [isWordChar]

theorem ne_semicolon_of_isWordChar {c : Char} (h : isWordChar c = true) : c ≠ ';' := by
  rintro rfl
  exact absurd h (by decide)

theorem ne_newline_of_isWordChar {c : Char} (h : isWordChar c = true) : c ≠ '\n' := by
  rintro rfl
  exact absurd h (by decide)

theorem digitValue_hexDigit : ∀ n < 16, digitValue (hexDigit n) = some n := by
  decide

theorem isWordChar_hexDigit : ∀ n < 16, isWordChar (hexDigit n) = true := by
  decide

/-- A byte has two hexadecimal digits. -/
theorem nibbles_lt (b : Byte) : b.toNat / 16 < 16 ∧ b.toNat % 16 < 16 := by
  have := b.isLt
  omega

theorem isWordChar_of_mem_showByte (b : Byte) : ∀ c ∈ showByte b, isWordChar c = true := by
  obtain ⟨hhigh, hlow⟩ := nibbles_lt b
  simp only [showByte, List.forall_mem_cons, List.not_mem_nil, false_implies, implies_true, and_true]
  exact ⟨by decide, by decide, isWordChar_hexDigit _ hhigh, isWordChar_hexDigit _ hlow⟩

/-! ### Numbers -/

theorem parseByte_showByte (b : Byte) : parseByte (showByte b) = some b := by
  obtain ⟨hhigh, hlow⟩ := nibbles_lt b
  have hnumber : parseNumber (showByte b) = some b.toNat := by
    have hvalue : (0 * 16 + b.toNat / 16) * 16 + b.toNat % 16 = b.toNat := by omega
    calc parseNumber (showByte b)
        = digitsValue 16 0 [hexDigit (b.toNat / 16), hexDigit (b.toNat % 16)] := rfl
      _ = some b.toNat := by
        simp only [digitsValue, digitValue_hexDigit _ hhigh, digitValue_hexDigit _ hlow, hhigh,
          hlow, if_true, hvalue]
  rw [parseByte, hnumber]
  simp [b.isLt]

/-! ### Lines -/

/-- A piece without separators, up to the first separator. -/
theorem splitChars_append_cons {sep : Char} {piece : List Char} (h : sep ∉ piece)
    (rest : List Char) : splitChars sep (piece ++ sep :: rest) = piece :: splitChars sep rest := by
  induction piece with
  | nil => simp [splitChars]
  | cons c cs ih =>
    have hc : c ≠ sep := (List.ne_of_not_mem_cons h).symm
    rw [List.cons_append, splitChars, if_neg hc, ih (List.not_mem_of_not_mem_cons h)]

theorem assembleLines_cons {line : List Char} {ws more : List Word} {rest : List (List Char)}
    (hline : assembleLine line = some ws) (hrest : assembleLines rest = some more) :
    assembleLines (line :: rest) = some (ws ++ more) := by
  rw [assembleLines, hline, hrest]

theorem stripComment_eq_self {cs : List Char} (h : ∀ c ∈ cs, c ≠ ';') : stripComment cs = cs := by
  rw [stripComment, List.takeWhile_eq_self_iff]
  exact fun c hc => decide_eq_true (h c hc)

/-- A text with no blank at either end. -/
theorem trimBlanks_eq_self {a b : Char} (ha : isBlank a = false) (hb : isBlank b = false)
    (middle : List Char) : trimBlanks (a :: (middle ++ [b])) = a :: (middle ++ [b]) := by
  simp [trimBlanks, ha, hb]

theorem trimBlanks_space_cons (cs : List Char) : trimBlanks (' ' :: cs) = trimBlanks cs := rfl

/-- A text that ends in a byte's last digit has no blank there. -/
theorem trimBlanks_append_showByte {a : Char} (ha : isBlank a = false) (cs : List Char) (b : Byte) :
    trimBlanks (a :: cs ++ showByte b) = a :: cs ++ showByte b := by
  have hlast := isBlank_of_isWordChar (isWordChar_hexDigit _ (nibbles_lt b).2)
  simpa [showByte] using trimBlanks_eq_self ha hlast (cs ++ ['0', 'x', hexDigit (b.toNat / 16)])

theorem trimBlanks_showByte (b : Byte) : trimBlanks (showByte b) = showByte b := by
  have hlast := isBlank_of_isWordChar (isWordChar_hexDigit _ (nibbles_lt b).2)
  exact trimBlanks_eq_self (by decide) hlast ['x', hexDigit (b.toNat / 16)]

/-- A line of a mnemonic, a space and an operand. -/
theorem assembleLine_operand {name : List Char} (hne : name ≠ [])
    (hname : ∀ c ∈ name, isWordChar c = true) (b : Byte) :
    assembleLine (name ++ ' ' :: showByte b) = assembleMnemonic name (showByte b) := by
  have hblank : ∀ c ∈ name, (!isBlank c) = true := fun c hc => by
    rw [isBlank_of_isWordChar (hname c hc), Bool.not_false]
  have hstrip : stripComment (name ++ ' ' :: showByte b) = name ++ ' ' :: showByte b := by
    refine stripComment_eq_self fun c hc => ?_
    obtain hc | rfl | hc : c ∈ name ∨ c = ' ' ∨ c ∈ showByte b := by simpa using hc
    · exact ne_semicolon_of_isWordChar (hname c hc)
    · decide
    · exact ne_semicolon_of_isWordChar (isWordChar_of_mem_showByte b c hc)
  have htrim : trimBlanks (name ++ ' ' :: showByte b) = name ++ ' ' :: showByte b := by
    obtain ⟨m, ms, rfl⟩ := List.exists_cons_of_ne_nil hne
    have hm := isBlank_of_isWordChar (hname m List.mem_cons_self)
    simpa using trimBlanks_append_showByte hm (ms ++ [' ']) b
  rw [assembleLine, hstrip, htrim, if_neg (by simp), List.takeWhile_append_of_pos hblank,
    List.dropWhile_append_of_pos hblank, List.takeWhile_cons_of_neg (by decide),
    List.dropWhile_cons_of_neg (by decide), trimBlanks_space_cons, trimBlanks_showByte,
    List.append_nil]

/-! ### The text of a command -/

/-- A mnemonic with an operand that the assembler reads as a byte. -/
theorem assembleLine_byte_operand {name : List Char} {command : Byte → Instr} (hne : name ≠ [])
    (hname : name.all isWordChar = true)
    (hmeaning : ∀ operand,
      assembleMnemonic name operand = (parseByte operand).map fun d => [encode (command d)])
    (b : Byte) : assembleLine (name ++ ' ' :: showByte b) = some [encode (command b)] := by
  rw [assembleLine_operand hne (List.all_eq_true.mp hname), hmeaning, parseByte_showByte, Option.map_some]

theorem assembleLine_showInstr (i : Instr) : assembleLine (showInstr i) = some [encode i] := by
  cases i with
  | nop | tbuild | cinit | vend => decide
  | cbyte d =>
    exact assembleLine_byte_operand (name := "CBYTE".toList) (command := .cbyte)
      (by decide) rfl (fun _ => rfl) d
  | vbyte d =>
    exact assembleLine_byte_operand (name := "VBYTE".toList) (command := .vbyte)
      (by decide) rfl (fun _ => rfl) d
  | tread d =>
    exact assembleLine_byte_operand (name := "TREAD".toList) (command := .tread)
      (by decide) rfl (fun _ => rfl) d

/-- A command is written on one line. -/
theorem newline_not_mem_showInstr (i : Instr) : '\n' ∉ showInstr i := by
  have hoperand (d : Byte) : '\n' ∉ showByte d := fun h =>
    ne_newline_of_isWordChar (isWordChar_of_mem_showByte d _ h) rfl
  cases i with
  | nop | tbuild | cinit | vend => decide
  | cbyte d | vbyte d | tread d =>
    exact List.not_mem_append (by decide) (hoperand d)

/-- Settles O44: by induction over the sequence, line by line; the last newline ends an empty line. -/
theorem assembleShownProgram : Obligations.AssembleShownProgram := by
  intro commands
  induction commands with
  | nil => decide
  | cons i rest ih =>
    have hsplit : splitChars '\n' (showProgram (i :: rest))
        = showInstr i :: splitChars '\n' (showProgram rest) := by
      rw [← splitChars_append_cons (newline_not_mem_showInstr i)]
      simp [showProgram]
    rw [assemble, hsplit]
    exact assembleLines_cons (assembleLine_showInstr i) ih

end Sys2Proof.Machine
end
